-- ==== Sys2Proof/Word.lean ====
section
/-! DEFINITION. The word types of PCXRLE: a byte of IN or PIX, and a 16-bit header word (spec 00_scope.md R7). -/

namespace Sys2Proof

/-- One byte, an unsigned value 0 to 255 (R7). -/
abbrev Byte := BitVec 8

/-- A 16-bit header word (R32, R33, R35). -/
abbrev Half := BitVec 16

end Sys2Proof
end

