-- ==== Sys2Proof/Config.lean ====
section
/-! DEFINITION. What an implementation of PCXRLE fixes: the constants of spec 00_scope.md R5, the parameters of R6,
and the free values, which have no body, so that no proof can rest on what they are. -/

namespace Sys2Proof

/-- What a RUN with count 0 does (R6, R95, R159). -/
inductive ZeroRun where
  /-- both bytes are consumed and no byte is delivered -/
  | skip
  /-- the stream is given no meaning -/
  | refuse
  deriving DecidableEq, Repr

/-- Which bit of a byte of the 1-bit mode is the leftmost of its eight columns (R6, R183). -/
inductive BitOrder where
  /-- bit 7 is the leftmost column -/
  | msbFirst
  /-- bit 0 is the leftmost column -/
  | lsbFirst
  deriving DecidableEq, Repr

namespace Config

/-! ### Constants (R5) -/

/-- MAGIC, the required value of IN[0]. -/
def magic : Byte := 0x0A#8

/-- HDR_SIZE, where the token stream starts. -/
def hdrSize : Nat := 128

/-- PAL_MARKER, the byte before the trailing palette. -/
def palMarker : Byte := 0x0C#8

/-- PAL_BYTES, the size of the trailing palette. -/
def palBytes : Nat := 768

/-- PAL_TAIL: the marker stands at LEN minus PAL_TAIL. -/
def palTail : Nat := 769

/-- MAX_RUN, the largest repeat count. -/
def maxRun : Nat := 63

/-- ALPHA, the A byte of every pixel. -/
def alpha : Byte := 0xFF#8

/-! ### Parameters (R6) -/

/-- ZERO_RUN. The spec decides `skip` and keeps the switch (D14). DESIGN CHOICE, unsafe: notes/assumptions/5.md. -/
def zeroRun : ZeroRun := .skip

/-- BIT_ORDER. The spec takes it from general knowledge (D17, G1). PRESUMED, unsafe: notes/assumptions/6.md. -/
def bitOrder : BitOrder := .msbFirst

/-- PLANESET, the plane counts accepted at 1 bit per pixel (D13). DESIGN CHOICE, unsafe: notes/assumptions/8.md. -/
def planeSet : List Byte := [1#8, 2#8, 3#8, 4#8]

/-- AW, the width of a byte address, of LEN and of CUR. The spec leaves it open with the default "unbounded natural
numbers", which is `none` here (D4). DESIGN CHOICE: notes/assumptions/7.md. -/
def addressWidth : Option Nat := none

/-- Whether `n` is an address of `w` bits; every natural number is one when the width is unbounded. -/
def isAddress (w : Option Nat) (n : Nat) : Bool :=
  match w with
  | none => true
  | some k => decide (n < 2 ^ k)

/-- Whether `n` bytes can be addressed with `w` bits (R6: WIDTH×HEIGHT×4 ≤ 2^AW). -/
def fitsSpace (w : Option Nat) (n : Nat) : Bool :=
  match w with
  | none => true
  | some k => decide (n ≤ 2 ^ k)

/-! ### Free values

START leaves every register but LEN "unspecified" (R120, R47). Each such register takes a free value that depends on
the number of the START (`epoch`) and on the register (`reg`, a number that only tells registers apart).
DESIGN CHOICE, safe: notes/assumptions/4.md. -/

/-- An unspecified register of `w` bits. -/
opaque freeBits (w epoch reg : Nat) : BitVec w

/-- An unspecified address register (CUR). -/
opaque freeAddr (epoch : Nat) : Nat

/-- An unspecified dimension register (WIDTH, HEIGHT). -/
opaque freeDim (epoch reg : Nat) : Int

/-- An unspecified register file of `n` bytes (HPAL, PAL). -/
opaque freeBytes (n epoch reg : Nat) : Vector Byte n

/-- An unspecified accumulator file (ACC). -/
opaque freeAcc (epoch : Nat) : List (BitVec 4)

end Config

end Sys2Proof
end

