-- ==== Sys2Proof/Syntax.lean ====
section
/-! DEFINITION. The instructions of PCXRLE: the two tokens of the run-length stream and the configuration patterns
of spec/opcode_table.json, and the place of the input each is read from (spec 30_encoding.md R90 to R99). -/

namespace Sys2Proof

/-- What the block decodes. One constructor per mnemonic of the opcode table: the two LIT rows are one format with
one operand (R91), and the four MODE.BP1 rows differ only in the plane count (R99). -/
inductive Instr where
  /-- LIT v: one byte below 0xC0, which delivers itself once (R91, R151). -/
  | lit (v : Byte)
  /-- RUN n, v: a control byte with the count n and a value byte (R92, R93, R152). -/
  | run (n : BitVec 6) (v : Byte)
  /-- MAGIC: the byte 0x0A at IN[0] (R98, R121). -/
  | magic
  /-- PALMARK: the byte 0x0C at IN[LEN-769], in IDX8 mode (R98, R128). -/
  | palmark
  /-- MODE.IDX8: the key (BPP, NPLANES) = (8, 1) (R99, R126). -/
  | modeIdx8
  /-- MODE.RGB24: the key (8, 3) (R99, R126). -/
  | modeRgb24
  /-- MODE.BP1: the key (1, planes) (R99, R126). -/
  | modeBp1 (planes : Byte)
  deriving DecidableEq, Repr

/-- The place a pattern is read from. The same byte means different things at different places (0x0A is MAGIC at
IN[0] and LIT 0x0A in the stream), so the decoder is told the place: the phase of the block fixes it. -/
inductive Slot where
  /-- the token stream, at CUR (R90) -/
  | token
  /-- the magic byte, at IN[0] (R98) -/
  | magic
  /-- the pair (BPP, NPLANES) (R99) -/
  | key
  /-- the palette marker, at IN[LEN-769] (R98) -/
  | marker
  deriving DecidableEq, Repr

/-- The place each instruction is read from. -/
def Instr.slot : Instr → Slot
  | .lit _ => .token
  | .run _ _ => .token
  | .magic => .magic
  | .palmark => .marker
  | .modeIdx8 => .key
  | .modeRgb24 => .key
  | .modeBp1 _ => .key

end Sys2Proof
end

