-- ==== Sys2Proof/WellFormed.lean ====
section
/-! DEFINITION. Which instruction terms can be encoded: a LIT holds a byte below 0xC0 (spec 30_encoding.md R91, R101),
a MODE.BP1 key has a plane count of PLANESET (R99, R6); every RUN can be encoded, its count having six bits (R92). -/

namespace Sys2Proof

/-- An instruction that the tables of 30_encoding.md can encode. -/
def Instr.wf : Instr → Bool
  | .lit v => decide (v.toNat ≤ 0xBF)
  | .run _ _ => true
  | .magic => true
  | .palmark => true
  | .modeIdx8 => true
  | .modeRgb24 => true
  | .modeBp1 planes => Config.planeSet.contains planes

end Sys2Proof
end

