-- ==== Sys2Proof/Decode.lean ====
section
/-! DEFINITION. The decoder, total on any bytes and rejecting by name; the encoder; the opcode table as rows; the
assembler's notation and pseudo-instructions (spec 30_encoding.md R90 to R104). -/

namespace Sys2Proof

/-! ### Decoding -/

/-- IS_RUN (R27, R90): the two top bits of a token's first byte are both set. -/
def isRun (c : Byte) : Bool := c.extractLsb' 6 2 == 0b11#2

/-- The repeat count of a control byte, its low six bits (R93). -/
def runCount (c : Byte) : BitVec 6 := c.extractLsb' 0 6

/-- Why the bytes at a place are no instruction. Each is one of the spec's raising conditions. -/
inductive DecodeError where
  /-- no byte where a token's first byte is needed (R153) -/
  | noTokenByte
  /-- a control byte with no value byte after it (R152, R153) -/
  | noValueByte
  /-- no byte at IN[0], or one that is not 10 (R121) -/
  | badMagic
  /-- a pair (BPP, NPLANES) outside the table (R126) -/
  | badKey (bpp nplanes : Byte)
  /-- an input too short to hold a palette marker (R128) -/
  | noMarkerByte
  /-- a marker byte that is not 12 (R128) -/
  | badMarker
  deriving DecidableEq, Repr

/-- The decoder's answer: an instruction and the bytes after it, or the reason there is none. -/
inductive Decoded where
  | ok (i : Instr) (rest : List Byte)
  | bad (e : DecodeError)
  deriving DecidableEq, Repr

/-- A token of the stream (R90 to R94). Every first byte starts one. -/
def decodeToken : List Byte → Decoded
  | [] => .bad .noTokenByte
  | c :: rest =>
    if isRun c then
      match rest with
      | [] => .bad .noValueByte
      | v :: rest' => .ok (.run (runCount c) v) rest'
    else .ok (.lit c) rest

/-- The magic byte, compared on all eight bits (R98, R121). -/
def decodeMagic : List Byte → Decoded
  | [] => .bad .badMagic
  | b :: rest => if b = Config.magic then .ok .magic rest else .bad .badMagic

/-- The pair (BPP, NPLANES), two whole bytes compared for equality (R99, R126). A missing byte reads as no pair. -/
def decodeKey : List Byte → Decoded
  | [] => .bad (.badKey 0#8 0#8)
  | [bpp] => .bad (.badKey bpp 0#8)
  | bpp :: nplanes :: rest =>
    if bpp = 8#8 ∧ nplanes = 1#8 then .ok .modeIdx8 rest
    else if bpp = 8#8 ∧ nplanes = 3#8 then .ok .modeRgb24 rest
    else if bpp = 1#8 ∧ Config.planeSet.contains nplanes then .ok (.modeBp1 nplanes) rest
    else .bad (.badKey bpp nplanes)

/-- The palette marker, compared on all eight bits (R98, R128). -/
def decodeMarker : List Byte → Decoded
  | [] => .bad .noMarkerByte
  | b :: rest => if b = Config.palMarker then .ok .palmark rest else .bad .badMarker

/-- The decoder: the bytes at a place, read as that place's patterns. -/
def decode : Slot → List Byte → Decoded
  | .token, bs => decodeToken bs
  | .magic, bs => decodeMagic bs
  | .key, bs => decodeKey bs
  | .marker, bs => decodeMarker bs

/-! ### Encoding -/

/-- The bytes of an instruction, lowest address first (R91, R92, R98, R99). -/
def encode : Instr → List Byte
  | .lit v => [v]
  | .run n v => [0b11#2 ++ n, v]
  | .magic => [0x0A#8]
  | .palmark => [0x0C#8]
  | .modeIdx8 => [8#8, 1#8]
  | .modeRgb24 => [8#8, 3#8]
  | .modeBp1 planes => [1#8, planes]

/-- The bytes of a sequence of instructions. -/
def encodeAll : List Instr → List Byte
  | [] => []
  | i :: is => encode i ++ encodeAll is

/-- The length in bytes that R90 and R98, R99 give an instruction. -/
def Instr.size : Instr → Nat
  | .lit _ => 1
  | .run _ _ => 2
  | .magic => 1
  | .palmark => 1
  | .modeIdx8 => 2
  | .modeRgb24 => 2
  | .modeBp1 _ => 2

/-! ### The opcode table -/

/-- One row of spec/opcode_table.json: a word `w` of `nbits` bits is the row's when `w &&& mask = pattern`. A word of
16 bits has its first byte in bits 15:8 (R92). -/
structure TableRow where
  mnemonic : String
  slot : Slot
  nbits : Nat
  mask : Nat
  pattern : Nat
  deriving DecidableEq, Repr

/-- The rows of spec/opcode_table.json, in its order. -/
def opcodeTable : List TableRow :=
  [⟨"LIT", .token, 8, 0x80, 0x00⟩,
   ⟨"LIT", .token, 8, 0xC0, 0x80⟩,
   ⟨"RUN", .token, 16, 0xC000, 0xC000⟩,
   ⟨"MAGIC", .magic, 8, 0xFF, 0x0A⟩,
   ⟨"PALMARK", .marker, 8, 0xFF, 0x0C⟩,
   ⟨"MODE.IDX8", .key, 16, 0xFFFF, 0x0801⟩] ++
  [⟨"MODE.RGB24", .key, 16, 0xFFFF, 0x0803⟩,
   ⟨"MODE.BP1", .key, 16, 0xFFFF, 0x0101⟩,
   ⟨"MODE.BP1", .key, 16, 0xFFFF, 0x0102⟩,
   ⟨"MODE.BP1", .key, 16, 0xFFFF, 0x0103⟩,
   ⟨"MODE.BP1", .key, 16, 0xFFFF, 0x0104⟩]

/-- A word is of a row's pattern. -/
def TableRow.hit (r : TableRow) (w : Nat) : Bool := w &&& r.mask == r.pattern

/-- The mnemonic of an instruction, as the opcode table spells it. -/
def Instr.mnemonic : Instr → String
  | .lit _ => "LIT"
  | .run _ _ => "RUN"
  | .magic => "MAGIC"
  | .palmark => "PALMARK"
  | .modeIdx8 => "MODE.IDX8"
  | .modeRgb24 => "MODE.RGB24"
  | .modeBp1 _ => "MODE.BP1"

/-- The bytes of a table word, first byte first: a word of 8 bits is one byte and a byte 0 follows it; a word of 16
bits has its first byte in bits 15:8, as the table numbers it (R92; notes/assumptions/15.md). -/
def tableBytes (nbits w : Nat) : List Byte :=
  if nbits ≤ 8 then [BitVec.ofNat 8 w, 0#8] else [BitVec.ofNat 8 (w / 256), BitVec.ofNat 8 w]

/-- The place a table word stands for. An 8-bit word 0x0A or 0x0C is the MARK row, every other 8-bit word a token; a
16-bit word with its two top bits set is a RUN, every other 16-bit word a mode key. DESIGN CHOICE:
notes/assumptions/15.md (the table gives LIT 0x0A and MAGIC the same word). -/
def tableSlot (nbits w : Nat) : Slot :=
  match tableBytes nbits w with
  | [] => .token
  | c :: _ =>
    if nbits ≤ 8 then
      if c = Config.magic then .magic else if c = Config.palMarker then .marker else .token
    else if isRun c then .token else .key

/-- The instruction the decoder reads from a word of the opcode table. -/
def decodeTableWord (nbits w : Nat) : Option Instr :=
  match decode (tableSlot nbits w) (tableBytes nbits w) with
  | .ok i _ => some i
  | .bad _ => none

/-! ### The assembler's notation (R101, R102) -/

/-- `LIT v`; refused when v is above 0xBF (R101). -/
def asmLit (v : Nat) : Option Instr := if v ≤ 0xBF then some (.lit (BitVec.ofNat 8 v)) else none

/-- `RUN n, v`; refused when n is above 63 or v is no byte (R101). -/
def asmRun (n v : Nat) : Option Instr :=
  if n ≤ Config.maxRun ∧ v ≤ 0xFF then some (.run (BitVec.ofNat 6 n) (BitVec.ofNat 8 v)) else none

/-- `BYTE v`: `LIT v` below 0xC0, else `RUN 1, v` (R102). -/
def asmByte (v : Byte) : Instr := if v.toNat < 0xC0 then .lit v else .run 1#6 v

/-- `FILL k, v`: k / 63 times `RUN 63, v`, then `RUN r, v` when r = k mod 63 is not 0 (R102). -/
def asmFill (k : Nat) (v : Byte) : List Instr :=
  List.replicate (k / 63) (.run 63#6 v) ++ if k % 63 = 0 then [] else [.run (BitVec.ofNat 6 (k % 63)) v]

/-- `RAW b0 b1 …`: one `BYTE` for each byte (R102). -/
def asmRaw (bs : List Byte) : List Instr := bs.map asmByte

/-- The decoded bytes a token delivers (R151, R152); the configuration patterns deliver none. -/
def Instr.delivers : Instr → List Byte
  | .lit v => [v]
  | .run n v => List.replicate n.toNat v
  | .magic => []
  | .palmark => []
  | .modeIdx8 => []
  | .modeRgb24 => []
  | .modeBp1 _ => []

/-- Every decoded byte a stream gives before it is truncated: the tokens in order, each expanded; a control byte
without its value byte gives nothing (R90, R97, R151 to R153). -/
def expand : List Byte → List Byte
  | [] => []
  | [c] => if isRun c then [] else [c]
  | c :: v :: rest =>
    if isRun c then List.replicate (runCount c).toNat v ++ expand rest else c :: expand (v :: rest)

end Sys2Proof
end

