-- ==== Sys2Proof/Machine/State.lean ====
section
/-! DEFINITION. The state of one PCXRLE instance (spec 10_state.md R20 to R49), the reasons a step can stop, and the
state after reset (R47, R250). Everything is plain data. -/

namespace Sys2Proof.Machine

/-- A memory space: the bytes that hold a value, by rising address, no address twice. An address that is not listed
holds no value (R47: "unspecified" gives the location no value; notes/assumptions/2.md, notes/assumptions/3.md). -/
abbrev Memory := List Host.Cell

/-- The canonical form: addresses strictly rising. No listed entry can equal what an unlisted address reads as, since
that is no value. -/
abbrev Memory.wf (m : Memory) : Prop := m.Pairwise (fun p q => p.1 < q.1)

/-- STATUS, the phase (R38). The code 7 is never produced, so it is no value (U17). -/
inductive Phase where
  | idle | hdr | dispatch | palload | decode | done | error
  deriving DecidableEq, Repr

/-- MODE (R37). -/
inductive Mode where
  | none | idx8 | rgb24 | bp1
  deriving DecidableEq, Repr

/-- ERR (R39, R210): no error, or one of the five kinds. The codes 6 and 7 are never produced (U17). -/
inductive Err where
  | none | invalidMagic | invalidDimensions | unsupportedFormat | missingPalette | truncatedStream
  deriving DecidableEq, Repr

/-- The Header record: CR1 to CR11 and HPAL (R28, R30 to R35, R41). -/
structure Header where
  version : Byte
  encoding : Byte
  bpp : Byte
  xmin : Half
  ymin : Half
  xmax : Half
  ymax : Half
  hdpi : Half
  vdpi : Half
  hpal : Vector Byte 48
  nplanes : Byte
  bpl : Half
  deriving DecidableEq, Repr

/-- What the host can do to the block (R253, R264), and `block`, by which the host lets the block take a step. -/
inductive HostMove where
  /-- the block takes its step -/
  | block
  /-- reset (R250) -/
  | reset
  /-- write IN[a] -/
  | writeIn (a : Nat) (b : Byte)
  /-- write LEN -/
  | writeLen (n : Nat)
  /-- START (R120) -/
  | start
  deriving DecidableEq, Repr

/-- Why the machine stops with a fault. None of them is one of the spec's five errors, which are next states. -/
inductive Fault where
  /-- A read of IN at an address below LEN that the host never loaded (R47: "a fault of the model or of the caller").
  Raised by `memRead1`. Safe: the hardware would go on with some byte. -/
  | inUnloaded (a : Nat)
  /-- A read of IN at or above LEN, which does not exist (R9, R44). Raised by `memRead1`; every rule checks LEN first,
  so no step and no meaning reaches it. Safe. -/
  | inOutOfRange (a : Nat)
  /-- A write to PIX at or above WIDTH×HEIGHT×4 (R9, R191). Raised by `memWrite`; only states outside R49 reach it.
  Safe. -/
  | pixOutOfRange (a : Nat)
  /-- A write to PIX while PIX does not exist (R45). Raised by `memWrite`; only states outside R49 reach it. Safe. -/
  | pixAbsent
  /-- A palette load or a sink with MODE = NONE (R127, R180: it cannot occur). Raised by `palloadStep` and `sink`; only
  states outside R49 reach it. Safe. -/
  | modeNone
  deriving DecidableEq, Repr

/-- Why the machine gives a step no meaning. -/
inductive Refusal where
  /-- An instruction without a meaning yet, named as the opcode table names it. No arm of `exec` raises it. Safe. -/
  | notModelled (mnemonic : String)
  /-- A host write to IN[a] while BUSY (R257, U11: no move). Raised by `hostMove`. Safe for the model; a host that
  breaks its duty is outside every claim. -/
  | hostWriteWhileBusy (a : Nat)
  /-- A host write to LEN while BUSY (R257, U11: no move). Raised by `hostMove`. Safe as above. -/
  | hostLenWhileBusy
  /-- A RUN with count 0 when ZERO_RUN is `refuse` (R95, R159). Raised by `runToken`; never with the default. Safe. -/
  | zeroRunRefused
  /-- A launch too large for a finite AW (D4, U18). Raised by `hostMove` and `openImage`; never with the default. Safe. -/
  | tooLargeForAddressWidth
  deriving DecidableEq, Repr

/-- The state of one instance (R20) and two fields of the model's own, `epoch` and `host`. -/
structure State where
  /-- RUNLEN (R21) -/
  runlen : BitVec 6
  /-- RUNVAL (R22) -/
  runval : Byte
  /-- BCNT (R23) -/
  bcnt : BitVec 16
  /-- PLN (R24) -/
  pln : BitVec 3
  /-- ROW (R25) -/
  row : BitVec 17
  /-- CUR, the program counter of the token stream (R26) -/
  cur : Nat
  /-- CR0, LEN (R29) -/
  len : Nat
  /-- CR1 to CR11 and HPAL -/
  hdr : Header
  /-- CR12, WIDTH (R36), an integer from -65534 to 65536 -/
  width : Int
  /-- CR13, HEIGHT (R36) -/
  height : Int
  /-- CR14, MODE (R37) -/
  mode : Mode
  /-- CR15, STATUS (R38) -/
  status : Phase
  /-- CR16, ERR (R39) -/
  err : Err
  /-- CR17, ERRINFO (R40) -/
  errinfo : BitVec 16
  /-- PAL (R42) -/
  pal : Vector Byte 768
  /-- ACC (R43), one entry per column of the current scanline -/
  acc : List (BitVec 4)
  /-- IN (R44), with the bytes the host has loaded -/
  input : Memory
  /-- PIX (R45): absent, or the bytes written so far -/
  pix : Option Memory
  /-- The model's own: how many STARTs were taken. It feeds the free values (notes/assumptions/4.md). -/
  epoch : Nat
  /-- The model's own: the moves of the host still to come, the next first; when it is empty the block moves
  (notes/assumptions/9.md). -/
  host : List HostMove
  deriving DecidableEq, Repr

/-- A header with every field 0. -/
def Header.zero : Header where
  version := 0#8
  encoding := 0#8
  bpp := 0#8
  xmin := 0#16
  ymin := 0#16
  xmax := 0#16
  ymax := 0#16
  hdpi := 0#16
  vdpi := 0#16
  hpal := Vector.replicate 48 0#8
  nplanes := 0#8
  bpl := 0#16

/-- The machine after reset (R47, R250): STATUS = IDLE, ERR = ERRINFO = 0, MODE = NONE, PIX does not exist, no byte of
IN holds a value. Every register the spec leaves unspecified holds 0. DESIGN CHOICE, unsafe: notes/assumptions/1.md. -/
def State.reset : State where
  runlen := 0#6
  runval := 0#8
  bcnt := 0#16
  pln := 0#3
  row := 0#17
  cur := 0
  len := 0
  hdr := Header.zero
  width := 0
  height := 0
  mode := .none
  status := .idle
  err := .none
  errinfo := 0#16
  pal := Vector.replicate 768 0#8
  acc := []
  input := []
  pix := .none
  epoch := 0
  host := []

end Sys2Proof.Machine
end

