-- ==== Sys2Proof/Machine/Operands.lean ====
section
/-! DEFINITION. The operand forms: how header words, dimensions, addresses of PIX and PAL, and the bits of a 1-bit-mode
byte are computed (spec 20_memory.md R60, R62, R68; 40_config_load.md R124; 42_pixel_palette.md R183 to R185, R191). -/

namespace Sys2Proof.Machine

/-- A little-endian word: the byte at the lower address is bits 7:0 (R9, R60). -/
def le16 (lo hi : Byte) : Half := hi ++ lo

/-- A dimension of the bounding box over the integers, without wrap-around (R124). -/
def dimension (lo hi : Half) : Int := (hi.toNat : Int) - (lo.toNat : Int) + 1

/-- The number of bytes of PIX, WIDTH×HEIGHT×4 (R45). -/
def pixSize (s : State) : Nat := s.width.toNat * s.height.toNat * 4

/-- The address of the pixel at column `x` of the current row, (ROW×WIDTH+x)×4 (R68, R191). -/
def pixAddr (s : State) (x : Nat) : Nat := (s.row.toNat * s.width.toNat + x) * 4

/-- The colour byte `c` (0 R, 1 G, 2 B) of palette entry `idx`: PAL[3×idx + c] (R184). -/
def palColour (pal : Vector Byte 768) (idx : Byte) (c : Fin 3) : Byte :=
  pal[3 * idx.toNat + c.val]'(by have := idx.isLt; have := c.isLt; omega)

/-- The column that bit group `bcnt` and position `i` (0 to 7, from the left) of a 1-bit-mode byte cover (R183). -/
def bp1Column (bcnt : BitVec 16) (i : Nat) : Nat := 8 * bcnt.toNat + i

/-- The bit of a byte at position `i` from the left (R183). -/
def columnBit (order : BitOrder) (v : Byte) (i : Nat) : Bool :=
  match order with
  | .msbFirst => v.getLsbD (7 - i)
  | .lsbFirst => v.getLsbD i

/-- The accumulator of column `x` (R43). A column the file does not hold reads 0; states of R49 never read one
(notes/assumptions/18.md). -/
def accAt (acc : List (BitVec 4)) (x : Nat) : BitVec 4 := acc.getD x 0#4

/-- `ACC[x] <- ACC[x] | (bit << plane)` (R185). -/
def accOr (acc : List (BitVec 4)) (x plane : Nat) (bit : Bool) : List (BitVec 4) :=
  acc.set x (accAt acc x ||| ((if bit then 1#4 else 0#4) <<< plane))

/-- `ACC[x] <- 0` for x from 0 to WIDTH−1 (R150, R155, R186). -/
def accClear (width : Int) : List (BitVec 4) := List.replicate width.toNat 0#4

/-- The palette index a column has accumulated, as a byte (R183). -/
def accIndex (acc : List (BitVec 4)) (x : Nat) : Byte := (accAt acc x).setWidth 8

/-- ERRINFO of UnsupportedFormat: BPP in bits 7:0, NPLANES in bits 15:8 (R40, R126). -/
def formatInfo (bpp nplanes : Byte) : BitVec 16 := nplanes ++ bpp

end Sys2Proof.Machine
end

