-- ==== Sys2Proof/Machine/Flags.lean ====
section
/-! DEFINITION. PCXRLE has no condition codes (spec 10_state.md R27); these are the predicates its rules use. IS_RUN is
`Sys2Proof.isRun`, in Decode.lean. -/

namespace Sys2Proof.Machine

/-- A busy phase: HDR, DISPATCH, PALLOAD or DECODE (R27). -/
def Phase.busy : Phase → Bool
  | .idle => false
  | .hdr => true
  | .dispatch => true
  | .palload => true
  | .decode => true
  | .done => false
  | .error => false

/-- BUSY (R27). -/
def busy (s : State) : Bool := s.status.busy

/-- IN_IMAGE(x): column `x` lies in the image (R27). -/
def inImage (s : State) (x : Nat) : Bool := decide ((x : Int) < s.width)

/-- LAST_PLANE: PLN = NPLANES − 1 (R27). -/
def lastPlane (s : State) : Bool := s.pln.toNat + 1 == s.hdr.nplanes.toNat

/-- END_OF_IMAGE: ROW = HEIGHT (R27). -/
def endOfImage (s : State) : Bool := decide ((s.row.toNat : Int) = s.height)

end Sys2Proof.Machine
end

