-- ==== Sys2Proof/Machine/Ops.lean ====
section
/-! DEFINITION. The named operations over memory and registers that the meanings share: outcomes in sequence, MemRead
and MemWrite (spec 00_scope.md R9), the register updates, taking an exception (R10, R219) and what leaves it again:
START and reset (R120, R221, R250). -/

namespace Sys2Proof.Machine

/-- What a step or a meaning answers. -/
abbrev Result := Host.Outcome State Fault Refusal

/-- Go on from a next state; a stop stays a stop. -/
def andThen (o : Result) (k : State → Result) : Result :=
  match o with
  | .next s => k s
  | .fault r => .fault r
  | .refused r => .refused r

/-- Go on with a value that was read; a read that faulted stops the machine. -/
def withRead {α : Type} (r : Except Fault α) (k : α → Result) : Result :=
  match r with
  | .ok a => k a
  | .error f => .fault f

/-! ### Memory -/

/-- The byte at an address, if it holds a value. -/
def Memory.read : Memory → Nat → Option Byte
  | [], _ => none
  | (k, b) :: rest, a => if k = a then some b else Memory.read rest a

/-- Store a byte at an address, keeping the addresses strictly rising. -/
def Memory.write : Memory → Nat → Byte → Memory
  | [], a, b => [(a, b)]
  | (k, x) :: rest, a, b =>
    if a < k then (a, b) :: (k, x) :: rest
    else if a = k then (a, b) :: rest
    else (k, x) :: Memory.write rest a b

/-- MemRead(a, 1): the byte of IN at `a` (R9). An address at or above LEN does not exist (R44); a byte the host never
loaded has no value (R47). -/
def memRead1 (s : State) (a : Nat) : Except Fault Byte :=
  if a < s.len then
    match s.input.read a with
    | some b => .ok b
    | none => .error (.inUnloaded a)
  else .error (.inOutOfRange a)

/-- MemRead(a, 2): the little-endian word at `a` (R9, R60). -/
def memRead2 (s : State) (a : Nat) : Except Fault Half :=
  match memRead1 s a with
  | .error f => .error f
  | .ok lo =>
    match memRead1 s (a + 1) with
    | .error f => .error f
    | .ok hi => .ok (le16 lo hi)

/-- The bytes at `n` ascending addresses from `a` on, in one pass over the listed cells, after those of `acc` (which
are in reverse order); an address that holds no value is answered by itself. -/
def Memory.readRun : Memory → (a n : Nat) → (acc : List Byte) → Except Nat (List Byte)
  | _, _, 0, acc => .ok acc.reverse
  | [], a, _ + 1, _ => .error a
  | (k, b) :: rest, a, n + 1, acc =>
    if k = a then Memory.readRun rest (a + 1) n (b :: acc)
    else if k < a then Memory.readRun rest a (n + 1) acc
    else .error a

theorem Memory.readRun_length {m : Memory} {a n : Nat} {acc l : List Byte}
    (h : m.readRun a n acc = .ok l) : l.length = acc.length + n := by
  induction m generalizing a n acc with
  | nil => cases n <;> simp_all [Memory.readRun]; subst h; simp
  | cons c rest ih =>
    obtain ⟨k, b⟩ := c
    cases n with
    | zero => simp only [Memory.readRun, Except.ok.injEq] at h; subst h; simp
    | succ n =>
      simp only [Memory.readRun] at h
      split at h
      · have := ih h; simp only [List.length_cons] at this; omega
      · split at h
        · exact ih h
        · cases h

/-- `n` single-byte reads of IN at ascending addresses from `a` on (R64, R123, R128). Laws/Memory.lean says that this
is `memRead1` at each of them. -/
def readBytes (s : State) (a n : Nat) : Except Fault (Vector Byte n) :=
  if a + n ≤ s.len then
    match h : s.input.readRun a n [] with
    | .ok bs => .ok ⟨bs.toArray, by simpa using Memory.readRun_length h⟩
    | .error k => .error (.inUnloaded k)
  else .error (.inOutOfRange (max a s.len))

/-- MemWrite(a, 1, b): store a byte in PIX (R9), which must exist (R45) and hold the address (R191). -/
def memWrite (a : Nat) (b : Byte) (s : State) : Result :=
  match s.pix with
  | .none => .fault .pixAbsent
  | .some m =>
    if a < pixSize s then .next { s with pix := .some (m.write a b) }
    else .fault (.pixOutOfRange a)

/-! ### Registers -/

/-- The token fetch writes RUNLEN and RUNVAL together and moves CUR past the token (R21, R22, R26). -/
def setToken (n : BitVec 6) (v : Byte) (size : Nat) (s : State) : State :=
  { s with runlen := n, runval := v, cur := s.cur + size }

/-- HDR.LOAD writes CR1 to CR11 and HPAL (R123). -/
def setHeader (h : Header) (s : State) : State := { s with hdr := h }

/-- HDR.DIM writes WIDTH and HEIGHT (R124). -/
def setDims (w h : Int) (s : State) : State := { s with width := w, height := h }

/-- HDR.DONE: PIX comes into being with no byte written, and STATUS moves on (R125). -/
def openPix (s : State) : State := { s with pix := .some [], status := .dispatch }

/-- DISPATCH selects a mode and STATUS moves on (R126). -/
def selectMode (m : Mode) (s : State) : State := { s with mode := m, status := .palload }

/-- PALLOAD writes PAL (R128, R129). -/
def setPal (p : Vector Byte 768) (s : State) : State := { s with pal := p }

/-- DECODE.INIT (R150, R158). -/
def decodeInit (s : State) : State :=
  { s with
    cur := Config.hdrSize, runlen := 0#6, row := 0#17, pln := 0#3, bcnt := 0#16,
    acc := if s.mode = .bp1 then accClear s.width else s.acc,
    status := if s.hdr.bpl = 0#16 then .done else .decode }

/-- A byte-step takes one decoded byte from the active run (R154). -/
def takeByte (s : State) : State := { s with runlen := s.runlen - 1#6 }

/-- Write the accumulator file (R185). -/
def setAcc (acc : List (BitVec 4)) (s : State) : State := { s with acc := acc }

/-- The advance after a delivered byte (R155); RUNLEN and RUNVAL are not touched (R156). -/
def advance (s : State) : State :=
  if s.bcnt.toNat + 1 = s.hdr.bpl.toNat then
    if s.pln.toNat + 1 = s.hdr.nplanes.toNat then
      { s with
        bcnt := 0#16, pln := 0#3, row := s.row + 1#17,
        acc := if s.mode = .bp1 ∧ ((s.row + 1#17).toNat : Int) < s.height then accClear s.width else s.acc,
        status := if ((s.row + 1#17).toNat : Int) = s.height then .done else s.status }
    else { s with bcnt := 0#16, pln := s.pln + 1#3 }
  else { s with bcnt := s.bcnt + 1#16 }

/-! ### Exceptions -/

/-- Taking an exception (R10, R216, R219): ERR, ERRINFO and STATUS are written and PIX has no content from then on.
Nothing is saved and control goes nowhere. The other registers keep what was last written to them (R28, R216). -/
def raise (e : Err) (info : BitVec 16) (s : State) : State :=
  { s with err := e, errinfo := info, status := .error, pix := .none }

/-- START taken in IDLE, DONE or ERROR, the one way but reset out of ERROR (R120, R221): LEN and IN are kept, ERR,
ERRINFO and MODE are cleared, PIX does not exist, and every other register takes a free value (R47). -/
def start (s : State) : State :=
  { s with
    runlen := Config.freeBits 6 s.epoch 18, runval := Config.freeBits 8 s.epoch 19,
    bcnt := Config.freeBits 16 s.epoch 20, pln := Config.freeBits 3 s.epoch 21,
    row := Config.freeBits 17 s.epoch 22, cur := Config.freeAddr s.epoch,
    hdr :=
      { version := Config.freeBits 8 s.epoch 1, encoding := Config.freeBits 8 s.epoch 2,
        bpp := Config.freeBits 8 s.epoch 3, xmin := Config.freeBits 16 s.epoch 4,
        ymin := Config.freeBits 16 s.epoch 5, xmax := Config.freeBits 16 s.epoch 6,
        ymax := Config.freeBits 16 s.epoch 7, hdpi := Config.freeBits 16 s.epoch 8,
        vdpi := Config.freeBits 16 s.epoch 9, hpal := Config.freeBytes 48 s.epoch 0,
        nplanes := Config.freeBits 8 s.epoch 10, bpl := Config.freeBits 16 s.epoch 11 },
    width := Config.freeDim s.epoch 12, height := Config.freeDim s.epoch 13,
    mode := .none, status := .hdr, err := .none, errinfo := 0#16,
    pal := Config.freeBytes 768 s.epoch 1, acc := Config.freeAcc s.epoch,
    pix := .none, epoch := s.epoch + 1 }

/-- Reset applied in any phase (R250). The schedule of the host and the count of STARTs are not the block's and stay
(notes/assumptions/22.md). -/
def hostReset (s : State) : State := { State.reset with epoch := s.epoch, host := s.host }

/-- The host writes IN[a] (R264). -/
def loadByte (a : Nat) (b : Byte) (s : State) : State := { s with input := s.input.write a b }

/-- The host writes LEN (R29, R264). -/
def setLen (n : Nat) (s : State) : State := { s with len := n }

/-- The schedule of the host. -/
def setHost (h : List HostMove) (s : State) : State := { s with host := h }

end Sys2Proof.Machine
end

