-- ==== Sys2Proof/Machine/Header.lean ====
section
/-! DEFINITION. The meaning of MAGIC: what the HDR step does once the magic byte is there (spec 40_config_load.md R122
to R125), and the header load. -/

namespace Sys2Proof.Machine

/-- HDR.LOAD's reads of IN[1..67], in the rule's order; IN[64] is not read (R123, R67). -/
def readHeader (s : State) : Except Fault Header := do
  let version ← memRead1 s 1
  let encoding ← memRead1 s 2
  let bpp ← memRead1 s 3
  let xmin ← memRead2 s 4
  let ymin ← memRead2 s 6
  let xmax ← memRead2 s 8
  let ymax ← memRead2 s 10
  let hdpi ← memRead2 s 12
  let vdpi ← memRead2 s 14
  let hpal ← readBytes s 16 48
  let nplanes ← memRead1 s 65
  let bpl ← memRead2 s 66
  return { version, encoding, bpp, xmin, ymin, xmax, ymax, hdpi, vdpi, hpal, nplanes, bpl }

/-- HDR.DIM's check and HDR.DONE (R124, R125). A PIX that a finite AW cannot address is a launch the model refuses
(R6, U18). -/
def openImage (s : State) : Result :=
  if s.width ≤ 0 ∨ s.height ≤ 0 then .next (raise .invalidDimensions 0#16 s)
  else if Config.fitsSpace Config.addressWidth (pixSize s) then .next (openPix s)
  else .refused .tooLargeForAddressWidth

/-- HDR.LOAD, HDR.DIM and HDR.DONE (R123 to R125). The header and the dimensions stay when the check raises (R28, R212,
R216; DEDUCED against R220: notes/assumptions/13.md). -/
def loadHeader (s : State) : Result :=
  withRead (readHeader s) fun h =>
    openImage (setDims (dimension h.xmin h.xmax) (dimension h.ymin h.ymax) (setHeader h s))

/-- MAGIC: the HDR step after HDR.MAGIC has passed (R122 to R125). -/
def execMagic (s : State) : Result :=
  if s.len < Config.hdrSize then .next (raise .truncatedStream 0#16 s)
  else loadHeader s

end Sys2Proof.Machine
end

