-- ==== Sys2Proof/Machine/ModeSelect.lean ====
section
/-! DEFINITION. The meanings of the mode keys: what the DISPATCH step does for a supported pair (BPP, NPLANES) (spec
40_config_load.md R126). The plane count stays in NPLANES, where the header load put it. -/

namespace Sys2Proof.Machine

/-- MODE.IDX8 (R126). -/
def execModeIdx8 (s : State) : Result := .next (selectMode .idx8 s)

/-- MODE.RGB24 (R126). -/
def execModeRgb24 (s : State) : Result := .next (selectMode .rgb24 s)

/-- MODE.BP1 (R126). -/
def execModeBp1 (s : State) : Result := .next (selectMode .bp1 s)

end Sys2Proof.Machine
end

