-- ==== Sys2Proof/Machine/Palette.lean ====
section
/-! DEFINITION. The PALLOAD step: the meaning of PALMARK (spec 40_config_load.md R128) and the two palette loads that
read no pattern (R129, R130). Each ends in DECODE.INIT (R127, R150). -/

namespace Sys2Proof.Machine

/-- PALMARK: PALLOAD.IDX8 once the marker is there (R128): PAL is loaded from the last 768 bytes of IN. -/
def execPalmark (s : State) : Result :=
  if s.len < Config.palTail then .next (raise .truncatedStream 0#16 s)
  else withRead (readBytes s (s.len - Config.palBytes) Config.palBytes) fun p => .next (decodeInit (setPal p s))

/-- PAL after PALLOAD.BP1: the first 48 bytes are HPAL's, the others keep what they held (R129). -/
def bp1Palette (hpal : Vector Byte 48) (pal : Vector Byte 768) : Vector Byte 768 :=
  Vector.ofFn fun j => if h : j.val < 48 then hpal[j.val] else pal[j.val]

/-- PALLOAD.BP1 (R129). -/
def palloadBp1 (s : State) : State := decodeInit (setPal (bp1Palette s.hdr.hpal s.pal) s)

/-- PALLOAD.RGB24: no palette (R130). -/
def palloadRgb24 (s : State) : State := decodeInit s

end Sys2Proof.Machine
end

