-- ==== Sys2Proof/Machine/Token.lean ====
section
/-! DEFINITION. The meanings of the two tokens of the stream, LIT and RUN (spec 41_rle_stream.md R151, R152, R153,
R159). A token only loads the active run; the byte-step delivers it (Machine/Sink.lean, Machine/Phases.lean). -/

namespace Sys2Proof.Machine

/-- LIT v (R151): an active run of one byte, CUR past the token. A token that does not lie below LEN raises
TruncatedStream (R153). -/
def execLit (v : Byte) (s : State) : Result :=
  if s.len ≤ s.cur then .next (raise .truncatedStream 0#16 s)
  else .next (setToken 1#6 v 1 s)

/-- RUN n, v whose two bytes are there (R152). With n = 0 nothing is left to deliver: both bytes are consumed when
ZERO_RUN is `skip`, and the stream has no meaning when it is `refuse` (R95, R159). -/
def runToken (z : ZeroRun) (n : BitVec 6) (v : Byte) (s : State) : Result :=
  match z with
  | .skip => .next (setToken n v 2 s)
  | .refuse => if n = 0#6 then .refused .zeroRunRefused else .next (setToken n v 2 s)

/-- RUN n, v (R152). A value byte at or beyond LEN raises TruncatedStream (R153). -/
def execRun (n : BitVec 6) (v : Byte) (s : State) : Result :=
  if s.len ≤ s.cur + 1 then .next (raise .truncatedStream 0#16 s)
  else runToken Config.zeroRun n v s

end Sys2Proof.Machine
end

