-- ==== Sys2Proof/Machine/Dispatch.lean ====
section
/-! DEFINITION. The meaning of every instruction, one arm per constructor. -/

namespace Sys2Proof.Machine

def exec (i : Instr) (s : State) : Host.Outcome State Fault Refusal :=
  match i with
  | .lit v => Sys2Proof.Machine.execLit v s
  | .run n v => Sys2Proof.Machine.execRun n v s
  | .magic => Sys2Proof.Machine.execMagic s
  | .palmark => Sys2Proof.Machine.execPalmark s
  | .modeIdx8 => Sys2Proof.Machine.execModeIdx8 s
  | .modeRgb24 => Sys2Proof.Machine.execModeRgb24 s
  | .modeBp1 _ => Sys2Proof.Machine.execModeBp1 s

end Sys2Proof.Machine
end

