-- ==== Sys2Proof/Machine/Sink.lean ====
section
/-! DEFINITION. The pixel stage: the three sinks that take one decoded byte at the position (ROW, PLN, BCNT), and the
delivery of a byte, which ends a byte-step (spec 42_pixel_palette.md R180 to R188; 41_rle_stream.md R154). -/

namespace Sys2Proof.Machine

/-- Write R, G, B, 255 of palette entry `idx` at column `x` of the current row (R181, R183, R184, R188). -/
def writePixel (x : Nat) (idx : Byte) (s : State) : Result :=
  andThen (memWrite (pixAddr s x) (palColour s.pal idx 0) s) fun s1 =>
  andThen (memWrite (pixAddr s x + 1) (palColour s.pal idx 1) s1) fun s2 =>
  andThen (memWrite (pixAddr s x + 2) (palColour s.pal idx 2) s2) fun s3 =>
  memWrite (pixAddr s x + 3) Config.alpha s3

/-- SINK.IDX8 (R181): the byte is a palette index, BCNT the column; a column beyond the image is padding (R187). -/
def sinkIdx8 (v : Byte) (s : State) : Result :=
  if inImage s s.bcnt.toNat then writePixel s.bcnt.toNat v s else .next s

/-- SINK.RGB24 (R182): the byte is the channel PLN of column BCNT; A is written with the last plane (R188). -/
def sinkRgb24 (v : Byte) (s : State) : Result :=
  if inImage s s.bcnt.toNat then
    andThen (memWrite (pixAddr s s.bcnt.toNat + s.pln.toNat) v s) fun s1 =>
      if s.pln = 2#3 then memWrite (pixAddr s s.bcnt.toNat + 3) Config.alpha s1 else .next s1
  else .next s

/-- One of the eight columns of SINK.BP1 (R183): accumulate the bit, and with the last plane resolve the pixel. -/
def sinkBp1Column (v : Byte) (i : Nat) (s : State) : Result :=
  if inImage s (bp1Column s.bcnt i) then
    let s1 := setAcc (accOr s.acc (bp1Column s.bcnt i) s.pln.toNat (columnBit Config.bitOrder v i)) s
    if lastPlane s then writePixel (bp1Column s.bcnt i) (accIndex s1.acc (bp1Column s.bcnt i)) s1 else .next s1
  else .next s

/-- The columns of SINK.BP1 in order (R183). -/
def sinkBp1Columns (v : Byte) : List Nat → State → Result
  | [], s => .next s
  | i :: is, s => andThen (sinkBp1Column v i s) (sinkBp1Columns v is)

/-- SINK.BP1 (R183): eight columns, from the left. -/
def sinkBp1 (v : Byte) (s : State) : Result := sinkBp1Columns v [0, 1, 2, 3, 4, 5, 6, 7] s

/-- The sink MODE selects (R180). MODE = NONE cannot occur in DECODE. -/
def sink (v : Byte) (s : State) : Result :=
  match s.mode with
  | .none => .fault .modeNone
  | .idx8 => sinkIdx8 v s
  | .rgb24 => sinkRgb24 v s
  | .bp1 => sinkBp1 v s

/-- The end of a byte-step (R154): one byte of the active run goes to the sink, and the counters advance. -/
def deliver (s : State) : Result :=
  andThen (sink s.runval (takeByte s)) fun s1 => .next (advance s1)

end Sys2Proof.Machine
end

