-- ==== Sys2Proof/Machine/Phases.lean ====
section
/-! DEFINITION. The steps of the block: fetching what a phase decodes, the HDR, DISPATCH and PALLOAD steps (spec
40_config_load.md R121 to R131), the byte-step of DECODE (41_rle_stream.md R153, R154), and the quiescent phases
(60_exceptions.md R229). -/

namespace Sys2Proof.Machine

/-- The bytes at a place. The magic byte: IN[0], if LEN > 0 (R121). The key: BPP and NPLANES (R126). The marker:
IN[LEN−769], if LEN ≥ 769 (R128). A token: IN[CUR] if CUR < LEN, and for a control byte IN[CUR+1] if CUR+1 < LEN
(R153); nothing else is read. -/
def fetchBytes (slot : Slot) (s : State) : Except Fault (List Byte) :=
  match slot with
  | .magic => if s.len = 0 then .ok [] else (memRead1 s 0).map fun b => [b]
  | .key => .ok [s.hdr.bpp, s.hdr.nplanes]
  | .marker => if s.len < Config.palTail then .ok [] else (memRead1 s (s.len - Config.palTail)).map fun b => [b]
  | .token =>
    if s.len ≤ s.cur then .ok []
    else
      match memRead1 s s.cur with
      | .error f => .error f
      | .ok c =>
        if isRun c ∧ s.cur + 1 < s.len then (memRead1 s (s.cur + 1)).map fun v => [c, v]
        else .ok [c]

/-- The error a refused pattern raises (R121, R126, R128, R153). -/
def raisedKind : DecodeError → Err
  | .noTokenByte => .truncatedStream
  | .noValueByte => .truncatedStream
  | .badMagic => .invalidMagic
  | .badKey _ _ => .unsupportedFormat
  | .noMarkerByte => .truncatedStream
  | .badMarker => .missingPalette

/-- The value a refused pattern records in ERRINFO (R210). -/
def raisedInfo : DecodeError → BitVec 16
  | .noTokenByte => 0#16
  | .noValueByte => 0#16
  | .badMagic => 0#16
  | .badKey bpp nplanes => formatInfo bpp nplanes
  | .noMarkerByte => 0#16
  | .badMarker => 0#16

/-- Fetch at a place, decode, and run the instruction, or raise the error its absence is. -/
def issue (slot : Slot) (s : State) : Result :=
  withRead (fetchBytes slot s) fun bs =>
    match decode slot bs with
    | .ok i _ => exec i s
    | .bad e => .next (raise (raisedKind e) (raisedInfo e) s)

/-- The fetch loop of the byte-step (R154): tokens are fetched until a run is active or an error is raised. The fuel
LEN − CUR is enough, since every token moves CUR; with none left CUR ≥ LEN, and the fetch raises TruncatedStream.
Zero-count RUNs skipped before a raise stay consumed: CUR is at the token whose fetch failed (R220; DEDUCED:
notes/assumptions/13.md). -/
def fetchRun : Nat → State → Result
  | 0, s => if s.runlen = 0#6 then .next (raise .truncatedStream 0#16 s) else .next s
  | k + 1, s =>
    if s.runlen = 0#6 then
      andThen (issue .token s) fun s1 => if s1.status = .decode then fetchRun k s1 else .next s1
    else .next s

/-- One byte-step (R154): make a run active, then deliver one byte. A raise ends the step. -/
def byteStep (s : State) : Result :=
  andThen (fetchRun (s.len - s.cur) s) fun s1 => if s1.status = .decode then deliver s1 else .next s1

/-- The PALLOAD step (R127). MODE = NONE cannot occur. -/
def palloadStep (s : State) : Result :=
  match s.mode with
  | .none => .fault .modeNone
  | .idx8 => issue .marker s
  | .rgb24 => .next (palloadRgb24 s)
  | .bp1 => .next (palloadBp1 s)

/-- One step of the block (R131, R154, R253). In IDLE, DONE and ERROR it takes none and all state survives (R229;
notes/assumptions/11.md). -/
def blockStep (s : State) : Result :=
  match s.status with
  | .idle => .next s
  | .hdr => issue .magic s
  | .dispatch => issue .key s
  | .palload => palloadStep s
  | .decode => byteStep s
  | .done => .next s
  | .error => .next s

end Sys2Proof.Machine
end

