-- ==== Sys2Proof/Machine/HostPort.lean ====
section
/-! DEFINITION. What the host can do (spec 70_reset_and_hazards.md R250 to R264): its moves and its reads, the numbers
of the coded registers (10_state.md R28), and how a program is placed from outside (R251). -/

namespace Sys2Proof.Machine

/-! ### Moves -/

/-- One move of the host (R264). A write to IN or LEN while BUSY has no move (R257); START while BUSY is ignored
(R120); reset is taken in every phase (R250). A launch whose LEN a finite AW cannot hold is refused (U18). -/
def hostMove (m : HostMove) (s : State) : Result :=
  match m with
  | .block => blockStep s
  | .reset => .next (hostReset s)
  | .writeIn a b => if busy s then .refused (.hostWriteWhileBusy a) else .next (loadByte a b s)
  | .writeLen n => if busy s then .refused .hostLenWhileBusy else .next (setLen n s)
  | .start =>
    if busy s then .next s
    else if Config.isAddress Config.addressWidth s.len then .next (start s)
    else .refused .tooLargeForAddressWidth

/-- One step of the instance and its environment: the next move of the host, or, when no move is placed, a step of
the block (notes/assumptions/9.md). -/
def systemStep (s : State) : Result :=
  match s.host with
  | [] => blockStep s
  | m :: rest => hostMove m (setHost rest s)

/-! ### Codes of the registers (R28) -/

/-- STATUS as a number of 3 bits. -/
def phaseCode : Phase → BitVec 3
  | .idle => 0#3
  | .hdr => 1#3
  | .dispatch => 2#3
  | .palload => 3#3
  | .decode => 4#3
  | .done => 5#3
  | .error => 6#3

/-- MODE as a number of 2 bits. -/
def modeCode : Mode → BitVec 2
  | .none => 0#2
  | .idx8 => 1#2
  | .rgb24 => 2#2
  | .bp1 => 3#2

/-- ERR as a number of 3 bits (R210). -/
def errCode : Err → BitVec 3
  | .none => 0#3
  | .invalidMagic => 1#3
  | .invalidDimensions => 2#3
  | .unsupportedFormat => 3#3
  | .missingPalette => 4#3
  | .truncatedStream => 5#3

/-! ### Reads -/

/-- The registers a host can name: CR0 to CR17 (R28), and the working registers and CUR (section 2 of 10_state.md). -/
inductive HostReg where
  | len | version | encoding | bpp | xmin | ymin | xmax | ymax | hdpi | vdpi | nplanes | bpl
  | width | height | mode | status | err | errinfo
  | runlen | runval | bcnt | pln | row | cur
  deriving DecidableEq, Repr

/-- The content of a register. -/
def regValue (s : State) : HostReg → Int
  | .len => s.len
  | .version => s.hdr.version.toNat
  | .encoding => s.hdr.encoding.toNat
  | .bpp => s.hdr.bpp.toNat
  | .xmin => s.hdr.xmin.toNat
  | .ymin => s.hdr.ymin.toNat
  | .xmax => s.hdr.xmax.toNat
  | .ymax => s.hdr.ymax.toNat
  | .hdpi => s.hdr.hdpi.toNat
  | .vdpi => s.hdr.vdpi.toNat
  | .nplanes => s.hdr.nplanes.toNat
  | .bpl => s.hdr.bpl.toNat
  | .width => s.width
  | .height => s.height
  | .mode => (modeCode s.mode).toNat
  | .status => (phaseCode s.status).toNat
  | .err => (errCode s.err).toNat
  | .errinfo => s.errinfo.toNat
  | .runlen => s.runlen.toNat
  | .runval => s.runval.toNat
  | .bcnt => s.bcnt.toNat
  | .pln => s.pln.toNat
  | .row => s.row.toNat
  | .cur => s.cur

/-- Whether a read of a register has a value in a phase (R258, R264): STATUS always, ERR and ERRINFO when not BUSY,
every other register in DONE only. -/
def readable (p : Phase) : HostReg → Bool
  | .status => true
  | .err => !p.busy
  | .errinfo => !p.busy
  | _ => p == .done

/-- A host read of a register; `none` when the spec gives the read no value (notes/assumptions/21.md). -/
def hostReadReg (r : HostReg) (s : State) : Option Int :=
  if readable s.status r then some (regValue s r) else none

/-- A host read of HPAL, in DONE (R41, R264). -/
def hostReadHpal (j : Fin 48) (s : State) : Option Byte :=
  if s.status = .done then some s.hdr.hpal[j] else none

/-- A host read of PIX, in DONE (R45, R258); a byte never written has no value (R189). -/
def hostReadPix (a : Nat) (s : State) : Option Byte :=
  if s.status = .done ∧ a < pixSize s then s.pix.bind (fun m => m.read a) else none

/-! ### Placing an instruction from outside (R251; notes/assumptions/16.md) -/

/-- `n` cells that hold 0, from address `a` on. -/
def zeroCells : (a n : Nat) → Memory
  | _, 0 => []
  | a, n + 1 => (a, 0#8) :: zeroCells (a + 1) n

/-- Give each of the `n` addresses from `a` on that holds no value the byte 0. -/
def fillAbsent : Memory → (a n : Nat) → Memory
  | [], a, n => zeroCells a n
  | (k, b) :: rest, a, n =>
    if k < a then (k, b) :: fillAbsent rest a n
    else if a + n ≤ k then zeroCells a n ++ (k, b) :: rest
    else zeroCells a (k - a) ++ (k, b) :: fillAbsent rest (k + 1) (a + n - (k + 1))

/-- Store bytes at ascending addresses. -/
def storeBytes (m : Memory) (a : Nat) : List Byte → Memory
  | [] => m
  | b :: bs => storeBytes (m.write a b) (a + 1) bs

/-- The state of DECODE.INIT for a 1×1 true-colour image, from which a model of the decompressor alone may start
(R132); a state that already decodes is kept. -/
def openDecode (s : State) : State :=
  if s.status = .decode then s
  else
    { decodeInit { s with
        hdr := { s.hdr with bpp := 8#8, nplanes := 3#8, bpl := 1#16 }, width := 1, height := 1,
        mode := .rgb24, pix := .some [] } with status := .decode }

/-- The state with an instruction's bytes where the next step of the block fetches that place's pattern. Token: at
CUR, with no run active. Magic: at IN[0], with the header bytes that hold no value set to 0. Key: in BPP and NPLANES.
Marker: at IN[LEN−769], with the palette bytes that hold no value set to 0. -/
def placePattern (slot : Slot) (bs : List Byte) (s : State) : State :=
  match slot with
  | .token =>
    let d := openDecode s
    { d with
      host := [], runlen := 0#6, len := max d.len (d.cur + bs.length), input := storeBytes d.input d.cur bs }
  | .magic =>
    { s with
      host := [], status := .hdr, len := max s.len Config.hdrSize,
      input := fillAbsent (storeBytes s.input 0 (bs.take 1)) 0 Config.hdrSize }
  | .key =>
    { s with
      host := [], status := .dispatch,
      hdr := { s.hdr with bpp := bs.getD 0 0#8, nplanes := bs.getD 1 0#8 } }
  | .marker =>
    let len := max s.len (Config.hdrSize + Config.palTail)
    { s with
      host := [], status := .palload, mode := .idx8, len := len,
      input := fillAbsent (storeBytes s.input (len - Config.palTail) (bs.take 1))
        (len - Config.palBytes) Config.palBytes }

end Sys2Proof.Machine
end

