-- ==== Sys2Proof/Machine/Step.lean ====
section
/-! DEFINITION. The step of the machine, and the placing of one instruction for the next step. -/

namespace Sys2Proof.Machine

/-- One step: the host's next move, or a step of the block (spec 70_reset_and_hazards.md R253). -/
def step (s : State) : Host.Outcome State Fault Refusal := Sys2Proof.Machine.systemStep s

/-- The state in which the next step fetches and runs the instruction a word of the opcode table stands for
(notes/assumptions/16.md). -/
def State.withFetchWord (s : State) (nbits w : Nat) : State :=
  Sys2Proof.Machine.placePattern (tableSlot nbits w) (tableBytes nbits w) s

end Sys2Proof.Machine
end

