-- ==== Sys2Proof/Safety.lean ====
section
/-! DEFINITION. What claims about PCXRLE are stated in: the launch premise, the invariants of the phases (spec
10_state.md R36 to R40, R49), the position in the image, the bytes of PIX a position has written (42 R189), the image
a decoded stream stands for (42 R181 to R185), and the order of the configuration checks (60 R217). -/

namespace Sys2Proof.Machine

/-! ### Memory as a claim reads it -/

/-- The byte of PIX at an address, if one was written. -/
def pixByte (s : State) (a : Nat) : Option Byte := s.pix.bind fun m => m.read a

/-- The byte of IN at an address, if the host loaded one. -/
def inByte (s : State) (a : Nat) : Option Byte := s.input.read a

/-- The byte of IN at an address, for statements whose premise is that it is loaded. -/
def inAt (s : State) (a : Nat) : Byte := (inByte s a).getD 0#8

/-- The header word at an address of IN, for statements whose premise is that it is loaded. -/
def wordAt (s : State) (a : Nat) : Half := le16 (inAt s a) (inAt s (a + 1))

/-- The launch premise: every byte of the file is in IN (R251, R255). -/
abbrev Loaded (s : State) : Prop := ∀ a < s.len, (inByte s a).isSome

/-- The header the bytes of IN spell (R123). -/
def headerAt (s : State) : Header where
  version := inAt s 1
  encoding := inAt s 2
  bpp := inAt s 3
  xmin := wordAt s 4
  ymin := wordAt s 6
  xmax := wordAt s 8
  ymax := wordAt s 10
  hdpi := wordAt s 12
  vdpi := wordAt s 14
  hpal := Vector.ofFn fun j => inAt s (16 + j.val)
  nplanes := inAt s 65
  bpl := wordAt s 66

/-! ### The invariant of the phases -/

/-- The supported pairs and the modes they select (R99). -/
abbrev SupportedPair (bpp nplanes : Byte) (mode : Mode) : Prop :=
  (bpp = 8#8 ∧ nplanes = 1#8 ∧ mode = .idx8) ∨ (bpp = 8#8 ∧ nplanes = 3#8 ∧ mode = .rgb24) ∨
    (bpp = 1#8 ∧ 1 ≤ nplanes.toNat ∧ nplanes.toNat ≤ 4 ∧ mode = .bp1)

/-- The phases in which the header has been accepted. -/
def Phase.accepted : Phase → Bool
  | .idle => false
  | .hdr => false
  | .dispatch => true
  | .palload => true
  | .decode => true
  | .done => true
  | .error => false

/-- The accumulators hold no bit that has not been delivered in this scanline (R49). -/
abbrev AccClean (s : State) : Prop :=
  ∀ x < s.width.toNat, ∀ q < 4, (s.pln.toNat < q ∨ (q = s.pln.toNat ∧ 8 * s.bcnt.toNat ≤ x)) →
    (accAt s.acc x).getLsbD q = false

/-- The invariant of every phase: both memories are in canonical form and PIX holds nothing beyond its size; ERR tells
an error exactly in ERROR (R39); MODE is NONE until the dispatch (R37); PIX exists exactly from HDR.DONE to DONE
(R125, R219); and in DECODE what R49 lists. -/
structure Inv (s : State) : Prop where
  inputWf : s.input.wf
  pixWf : ∀ m ∈ s.pix, Memory.wf m
  pixInside : ∀ m ∈ s.pix, ∀ c ∈ m, c.1 < pixSize s
  errIff : s.err ≠ .none ↔ s.status = .error
  infoOnly : s.err ≠ .unsupportedFormat → s.errinfo = 0#16
  pixIff : s.pix.isSome = s.status.accepted
  modeNone : s.status = .idle ∨ s.status = .hdr ∨ s.status = .dispatch → s.mode = .none
  dims : s.status.accepted = true → 1 ≤ s.width ∧ s.width ≤ 65536 ∧ 1 ≤ s.height ∧ s.height ≤ 65536
  dimsOf : s.status.accepted = true →
    s.width = dimension s.hdr.xmin s.hdr.xmax ∧ s.height = dimension s.hdr.ymin s.hdr.ymax
  headerLen : s.status = .dispatch ∨ s.status = .palload ∨ s.status = .decode → Config.hdrSize ≤ s.len
  fresh : s.status = .dispatch ∨ s.status = .palload → s.pix = .some []
  pair : s.status = .palload ∨ s.status = .decode ∨ s.status = .done →
    SupportedPair s.hdr.bpp s.hdr.nplanes s.mode
  counters : s.status = .decode →
    1 ≤ s.hdr.bpl.toNat ∧ (s.row.toNat : Int) < s.height ∧ s.pln.toNat < s.hdr.nplanes.toNat ∧
      s.bcnt.toNat < s.hdr.bpl.toNat ∧ Config.hdrSize ≤ s.cur ∧ s.cur ≤ s.len
  marker : s.status = .decode → s.mode = .idx8 →
    Config.palTail ≤ s.len ∧ inByte s (s.len - Config.palTail) = .some Config.palMarker
  accs : s.status = .decode → s.mode = .bp1 → s.acc.length = s.width.toNat ∧ AccClean s
  ended : s.status = .done →
    (s.hdr.bpl = 0#16 ∧ s.row = 0#17 ∨ (s.row.toNat : Int) = s.height) ∧ s.pln = 0#3 ∧ s.bcnt = 0#16

/-! ### Position and coverage -/

/-- The number of the decoded byte (row y, plane p, index b) in the order of the loop nest (R155). -/
def byteNumber (s : State) (y p b : Nat) : Nat := (y * s.hdr.nplanes.toNat + p) * s.hdr.bpl.toNat + b

/-- How many decoded bytes have been delivered. -/
def position (s : State) : Nat := byteNumber s s.row.toNat s.pln.toNat s.bcnt.toNat

/-- How many decoded bytes the image has: HEIGHT × NPLANES × BPL (R155, R160). -/
def imageBytes (s : State) : Nat := s.height.toNat * s.hdr.nplanes.toNat * s.hdr.bpl.toNat

/-- The row, the column and the channel of an address of PIX (R45). -/
def rowOf (s : State) (a : Nat) : Nat := a / 4 / s.width.toNat

/-- The column of an address of PIX (R45). -/
def columnOf (s : State) (a : Nat) : Nat := a / 4 % s.width.toNat

/-- The plane whose byte writes channel `c` of a pixel: the plane of the channel, A with the last (R182, R188), in
RGB24 mode, else the last plane (R181, R183). -/
def writingPlane (s : State) (c : Nat) : Nat :=
  match s.mode with
  | .rgb24 => min c 2
  | _ => s.hdr.nplanes.toNat - 1

/-- The index, within its scanline-plane, of the decoded byte that covers a column: eight columns a byte in BP1 mode
(R181 to R183). -/
def coveringByte (s : State) (x : Nat) : Nat :=
  match s.mode with
  | .bp1 => x / 8
  | _ => x

/-- The decoded byte (y, p, b) exists and was delivered before the current position. -/
abbrev Delivered (s : State) (y p b : Nat) : Prop :=
  b < s.hdr.bpl.toNat ∧
    (y < s.row.toNat ∨ (y = s.row.toNat ∧ (p < s.pln.toNat ∨ (p = s.pln.toNat ∧ b < s.bcnt.toNat))))

/-- The bytes of PIX that are written at the current position: those whose decoded byte was delivered (R66, R189). -/
abbrev WrittenBefore (s : State) (a : Nat) : Prop :=
  a < pixSize s ∧ Delivered s (rowOf s a) (writingPlane s (a % 4)) (coveringByte s (columnOf s a))

/-- PIX holds exactly the bytes the position has written (R66, R189). -/
abbrev Covered (s : State) : Prop :=
  s.status = .decode ∨ s.status = .done → ∀ a, (pixByte s a).isSome ↔ WrittenBefore s a

/-! ### The image of a decoded stream -/

/-- The bytes of IN from an address up to LEN. -/
def inputFrom (s : State) (a : Nat) : List Byte := (List.range (s.len - a)).map fun j => inAt s (a + j)

/-- Every decoded byte still to come: what is left of the active run, and the tokens from CUR on (R154, R156). -/
def pending (s : State) : List Byte := List.replicate s.runlen.toNat s.runval ++ expand (inputFrom s s.cur)

/-- The palette index of a pixel in BP1 mode: bit p is plane p's bit of the column (R185). -/
def planeIndex (s : State) (d : List Byte) (y x : Nat) : Byte :=
  (List.range s.hdr.nplanes.toNat).foldl
    (fun idx p =>
      idx ||| (if columnBit Config.bitOrder (d.getD (byteNumber s y p (x / 8)) 0#8) (x % 8) then 1#8 else 0#8) <<< p)
    0#8

/-- The byte of PIX at an address when the decoded bytes are `d` (R181 to R185, R188), and no value where no decoded
byte covers the column (R189). -/
def imageByte (s : State) (d : List Byte) (a : Nat) : Option Byte :=
  let y := rowOf s a
  let x := columnOf s a
  if coveringByte s x < s.hdr.bpl.toNat then
    if h : a % 4 < 3 then
      match s.mode with
      | .none => none
      | .idx8 => some (palColour s.pal (d.getD (byteNumber s y 0 x) 0#8) ⟨a % 4, h⟩)
      | .rgb24 => some (d.getD (byteNumber s y (a % 4) x) 0#8)
      | .bp1 => some (palColour s.pal (planeIndex s d y x) ⟨a % 4, h⟩)
    else some Config.alpha
  else none

/-- The start of DECODE after DECODE.INIT, the entry of a model of the decompressor alone (R132, R150). -/
structure DecodeEntry (s : State) : Prop where
  inv : Inv s
  loaded : Loaded s
  phase : s.status = .decode
  atStart : s.cur = Config.hdrSize ∧ s.runlen = 0#6 ∧ s.row = 0#17 ∧ s.pln = 0#3 ∧ s.bcnt = 0#16
  fresh : s.pix = .some []
  alone : s.host = []

/-! ### The order of the configuration checks -/

/-- The error the phases before DECODE report: the first check of R217 that fails (items 1 to 6). -/
def configError (s : State) : Err :=
  if s.len = 0 ∨ inAt s 0 ≠ 10#8 then .invalidMagic
  else if s.len < 128 then .truncatedStream
  else if (wordAt s 8).toNat < (wordAt s 4).toNat ∨ (wordAt s 10).toNat < (wordAt s 6).toNat then .invalidDimensions
  else if ¬ (inAt s 3 = 8#8 ∧ (inAt s 65 = 1#8 ∨ inAt s 65 = 3#8) ∨
      inAt s 3 = 1#8 ∧ 1 ≤ (inAt s 65).toNat ∧ (inAt s 65).toNat ≤ 4) then .unsupportedFormat
  else if inAt s 3 = 8#8 ∧ inAt s 65 = 1#8 ∧ s.len < 769 then .truncatedStream
  else if inAt s 3 = 8#8 ∧ inAt s 65 = 1#8 ∧ inAt s (s.len - 769) ≠ 12#8 then .missingPalette
  else .none

/-- A run has ended (R252). -/
abbrev Ended (s : State) : Prop := s.status = .done ∨ s.status = .error

/-- The control registers whose content after a START the input alone decides (R252, R254): all but the working
registers and CUR. -/
abbrev ResultRegs : List HostReg :=
  [.len, .version, .encoding, .bpp, .xmin, .ymin, .xmax, .ymax, .hdpi, .vdpi, .nplanes, .bpl] ++
    [.width, .height, .mode, .status, .err, .errinfo]

/-- Two states that a host cannot tell apart by the reads the spec gives a value (R252, R258). -/
structure SameResult (s t : State) : Prop where
  regs : ∀ r ∈ ResultRegs, hostReadReg r s = hostReadReg r t
  hpal : ∀ j, hostReadHpal j s = hostReadHpal j t
  pix : ∀ a, hostReadPix a s = hostReadPix a t

end Sys2Proof.Machine
end

