-- ==== Sys2Proof/Certificates/Slice0/Obligations.lean ====
section
/-! DEFINITION. The statements for the provers, from the spec's numbered rules. Each docstring names the rule or the
section it formalises, and the log entry of a value the model chose. -/

open Sys2Proof Sys2Proof.Machine

/-! ### Encodings (30_encoding.md) -/

/-- R103, R104, R98, R99: words written out in the spec decode to the instructions they stand for. -/
def Obligations.WorkedEncodingsDecode : Prop :=
  decode .token [0b11000011#8, 0b00101010#8] = .ok (.run 3#6 0x2A#8) [] ∧
  decode .token [0xC6#8, 0x2A#8] = .ok (.run 6#6 0x2A#8) [] ∧
  decode .token [0x00#8] = .ok (.lit 0x00#8) [] ∧
  decode .token [0xBF#8] = .ok (.lit 0xBF#8) [] ∧
  decode .token [0xFF#8, 0xFF#8] = .ok (.run 63#6 0xFF#8) [] ∧
  decode .token [0xC1#8, 0xC0#8] = .ok (.run 1#6 0xC0#8) [] ∧
  decode .token [0xC0#8, 0xC0#8] = .ok (.run 0#6 0xC0#8) [] ∧
  decode .token [0xC2#8, 0xC2#8, 0xC2#8, 0x05#8] = .ok (.run 2#6 0xC2#8) [0xC2#8, 0x05#8] ∧
  decode .token [0xC2#8, 0x05#8] = .ok (.run 2#6 0x05#8) [] ∧
  decode .magic [0b00001010#8] = .ok .magic [] ∧
  decode .marker [0b00001100#8] = .ok .palmark [] ∧
  decode .key [0b00001000#8, 0b00000001#8] = .ok .modeIdx8 [] ∧
  decode .key [0b00001000#8, 0b00000011#8] = .ok .modeRgb24 [] ∧
  decode .key [0b00000001#8, 0b00000100#8] = .ok (.modeBp1 4#8) []

/-- R94: every first byte starts a token; below 0xC0 it is a LIT of one byte whose value is the byte itself, and from
0xC0 on a RUN of two bytes whose count is the first byte − 0xC0 and whose value is the second byte, whatever it is: the
token after it begins at the third byte. -/
def Obligations.EveryFirstByteStartsAToken : Prop :=
  ∀ (c v : Byte) (rest : List Byte),
    (c.toNat < 0xC0 → decode .token (c :: rest) = .ok (.lit c) rest ∧ (Instr.lit c).size = 1) ∧
    (0xC0 ≤ c.toNat → ∃ n : BitVec 6, n.toNat = c.toNat - 0xC0 ∧
      decode .token (c :: v :: rest) = .ok (.run n v) rest ∧ (Instr.run n v).size = 2)

/-- R93: the count of a RUN is c[5:0] = c & 0x3F = c − 0xC0, without bias, scaling or sign, and its value the second
byte unchanged; the value of a LIT is the first byte unchanged and its count is 1. -/
def Obligations.CountIsLowSixBits : Prop :=
  (∀ (c v : Byte) (rest : List Byte) (i : Instr) (r : List Byte), isRun c = true →
    decode .token (c :: v :: rest) = .ok i r →
      ∃ n : BitVec 6, i = .run n v ∧ n = c.extractLsb' 0 6 ∧ n.toNat = (c &&& 0x3F#8).toNat ∧
        n.toNat + 0xC0 = c.toNat) ∧
  (∀ (c : Byte) (rest : List Byte) (i : Instr) (r : List Byte) (s t : State), isRun c = false →
    decode .token (c :: rest) = .ok i r → exec i s = .next t → t.status ≠ .error →
      i = .lit c ∧ t.runlen = 1#6 ∧ t.runval = c)

/-- Every well-formed instruction is decoded from its own bytes, at its place, whatever follows. -/
def Obligations.DecodeOfEncode : Prop :=
  ∀ (i : Instr) (rest : List Byte), i.wf = true → decode i.slot (encode i ++ rest) = .ok i rest

/-- Each word has one meaning: what decodes to an instruction is that instruction's bytes, of the length R90 gives
it, at its place, and the instruction is well-formed. -/
def Obligations.EncodeOfDecode : Prop :=
  ∀ (slot : Slot) (bs : List Byte) (i : Instr) (rest : List Byte), decode slot bs = .ok i rest →
    i.wf = true ∧ i.slot = slot ∧ bs = encode i ++ rest ∧ bs.length = i.size + rest.length

/-- The decoder agrees with every row of the opcode table: a word of a row's pattern decodes to that row's mnemonic
and length, and every well-formed instruction has exactly one row its word belongs to. -/
def Obligations.DecodeAgreesWithOpcodeTable : Prop :=
  (∀ r ∈ opcodeTable, ∀ w < 2 ^ r.nbits, r.hit w = true →
    ∃ i rest, decode r.slot (tableBytes r.nbits w) = .ok i rest ∧ i.wf = true ∧ i.mnemonic = r.mnemonic ∧
      8 * i.size = r.nbits) ∧
  (∀ i : Instr, i.wf = true →
    ∃ r ∈ opcodeTable, r.slot = i.slot ∧ r.nbits = 8 * i.size ∧ r.mnemonic = i.mnemonic ∧
      ∃ w < 2 ^ r.nbits, (tableBytes r.nbits w).take i.size = encode i ∧ r.hit w = true ∧
        ∀ r' ∈ opcodeTable, r'.slot = i.slot → r'.nbits = r.nbits → r'.hit w = true → r' = r)

/-- R101: an assembler refuses `LIT v` with v ≥ 0xC0 and `RUN n, v` with n > 63, and encodes every other as the one
byte v, or the two bytes 0xC0+n and v. -/
def Obligations.AssemblerRefusesWhatCannotBeEncoded : Prop :=
  ∀ n v : Nat, v ≤ 0xFF →
    (asmLit v = none ↔ 0xC0 ≤ v) ∧ (asmRun n v = none ↔ 63 < n) ∧
    (v < 0xC0 → (asmLit v).map encode = some [BitVec.ofNat 8 v]) ∧
    (n ≤ 63 → (asmRun n v).map encode = some [BitVec.ofNat 8 (0xC0 + n), BitVec.ofNat 8 v])

/-- The pseudo-instructions deliver what R102 says: BYTE the one byte, FILL its k bytes, RAW the bytes given, and each
expands into tokens that can be encoded. -/
def Obligations.PseudoInstructionsDeliver : Prop :=
  (∀ v : Byte, (asmByte v).wf = true ∧ (asmByte v).delivers = [v]) ∧
  (∀ (k : Nat) (v : Byte), 1 ≤ k →
    (∀ i ∈ asmFill k v, i.wf = true) ∧ expand (encodeAll (asmFill k v)) = List.replicate k v) ∧
  (∀ bs : List Byte, (∀ i ∈ asmRaw bs, i.wf = true) ∧ expand (encodeAll (asmRaw bs)) = bs)

/-- A stream that begins with the words of well-formed tokens gives the bytes those tokens deliver, in order, and then
the bytes of what follows; a stream without control bytes gives itself. -/
def Obligations.TokenStreamExpands : Prop :=
  (∀ (is : List Instr) (tail : List Byte), (∀ i ∈ is, i.wf = true ∧ i.slot = .token) →
    expand (encodeAll is ++ tail) = is.flatMap Instr.delivers ++ expand tail) ∧
  (∀ bs : List Byte, (∀ b ∈ bs, b.toNat < 0xC0) → expand bs = bs)

/-! ### A step runs the decoded instruction -/

/-- When the bytes of the place a phase reads decode to an instruction, the step is `exec` of it. In DECODE, with no
run active, the byte-step goes on from the token's next state: another fetch if the token delivers nothing, and the
delivery (R154). The place is IN[0] in HDR, the pair (BPP, NPLANES) in DISPATCH, IN[LEN−769] in PALLOAD of IDX8
mode, and CUR in DECODE. -/
def Obligations.StepRunsDecodedInstruction : Prop :=
  ∀ (s : State) (slot : Slot) (bs : List Byte) (i : Instr) (rest : List Byte),
    s.host = [] → fetchBytes slot s = .ok bs → decode slot bs = .ok i rest →
    (s.status = .hdr ∧ slot = .magic ∨ s.status = .dispatch ∧ slot = .key ∨
      s.status = .palload ∧ s.mode = .idx8 ∧ slot = .marker → step s = exec i s) ∧
    (s.status = .decode → slot = .token → s.runlen = 0#6 →
      step s = andThen (exec i s) fun t => if t.status = .decode then byteStep t else .next t)

/-! ### The tokens (41_rle_stream.md) -/

/-- R151: LIT v sets RUNLEN to 1 and RUNVAL to v, the whole byte, and moves CUR by 1; at or beyond LEN the fetch raises
TruncatedStream; and a byte at CUR that is no control byte is fetched as the LIT of it, whatever its value. -/
def Obligations.LitLoadsOneByte : Prop :=
  ∀ (v : Byte) (s : State),
    (s.cur < s.len → exec (.lit v) s = .next { s with runlen := 1#6, runval := v, cur := s.cur + 1 }) ∧
    (s.len ≤ s.cur →
      exec (.lit v) s = .next { s with err := .truncatedStream, errinfo := 0#16, status := .error, pix := none } ∧
      issue .token s = exec (.lit v) s) ∧
    (s.cur < s.len → inByte s s.cur = some v → isRun v = false → issue .token s = exec (.lit v) s)

/-- R152: RUN n, v sets RUNLEN to n, 0 to 63, and RUNVAL to v and moves CUR by 2; with the value byte at or beyond LEN
it raises TruncatedStream; and a control byte at CUR is fetched as the RUN of its low six bits and the byte after it.
The count 0 rests on ZERO_RUN = skip (log 5). -/
def Obligations.RunLoadsCountAndValue : Prop :=
  ∀ (n : BitVec 6) (v : Byte) (s : State),
    (s.cur + 1 < s.len → exec (.run n v) s = .next { s with runlen := n, runval := v, cur := s.cur + 2 }) ∧
    (s.len ≤ s.cur + 1 → exec (.run n v) s =
      .next { s with err := .truncatedStream, errinfo := 0#16, status := .error, pix := none }) ∧
    (s.cur + 1 < s.len → inByte s s.cur = some (0b11#2 ++ n) → inByte s (s.cur + 1) = some v →
      issue .token s = exec (.run n v) s)

/-- R153: with no run active, a token fetch at or beyond LEN raises TruncatedStream, and so does a control byte whose
value byte would lie at or beyond LEN, whatever MODE is; ERRINFO is 0, and the step changes nothing else but that PIX
has no content. -/
def Obligations.FetchPastTheEndRaisesTruncated : Prop :=
  ∀ s : State, s.host = [] → s.status = .decode → s.runlen = 0#6 →
    (s.len ≤ s.cur ∨ (s.cur + 1 = s.len ∧ ∃ c, inByte s s.cur = some c ∧ isRun c = true)) →
    step s = .next { s with err := .truncatedStream, errinfo := 0#16, status := .error, pix := none }

/-- A zero-count RUN delivers nothing: the byte-step goes on as if it began after the token's two bytes (R159, with
ZERO_RUN = skip, log 5). -/
def Obligations.ZeroCountRunIsSkipped : Prop :=
  ∀ (s : State) (v : Byte), s.host = [] → s.status = .decode → s.runlen = 0#6 → s.cur + 1 < s.len →
    inByte s s.cur = some 0xC0#8 → inByte s (s.cur + 1) = some v →
    step s = step { s with runval := v, cur := s.cur + 2 }

/-- What the tokens leave unchanged: a LIT or a RUN that does not raise changes RUNLEN, RUNVAL and CUR only, and one
that raises changes STATUS, ERR and ERRINFO only and leaves PIX without content. No byte of IN changes, and no byte of
PIX but by the raise. -/
def Obligations.TokenFrame : Prop :=
  ∀ (i : Instr) (s t : State), i.slot = .token → exec i s = .next t →
    (t.bcnt = s.bcnt ∧ t.pln = s.pln ∧ t.row = s.row ∧ t.len = s.len ∧ t.hdr = s.hdr ∧ t.width = s.width ∧
      t.height = s.height ∧ t.mode = s.mode ∧ t.pal = s.pal ∧ t.acc = s.acc ∧ t.epoch = s.epoch ∧
      t.host = s.host ∧ ∀ a, inByte t a = inByte s a) ∧
    ((s.cur + i.size ≤ s.len ∧ t.status = s.status ∧ t.err = s.err ∧ t.errinfo = s.errinfo ∧
        t.cur = s.cur + i.size ∧ (t.pix.isSome = s.pix.isSome) ∧ ∀ a, pixByte t a = pixByte s a) ∨
      (s.len < s.cur + i.size ∧ t.runlen = s.runlen ∧ t.runval = s.runval ∧ t.cur = s.cur ∧
        t.status = .error ∧ t.err = .truncatedStream ∧ t.errinfo = 0#16 ∧ t.pix = none))

/-! ### The configuration (40_config_load.md) -/

/-- R121: the HDR step raises InvalidMagic when LEN is 0 or IN[0] is not 10, before any other check, and otherwise
runs MAGIC. -/
def Obligations.MagicByteIsTheFirstCheck : Prop :=
  ∀ s : State, s.host = [] → s.status = .hdr →
    (s.len = 0 ∨ (0 < s.len ∧ ∃ b, inByte s 0 = some b ∧ b ≠ 10#8) →
      step s = .next { s with err := .invalidMagic, errinfo := 0#16, status := .error, pix := none }) ∧
    (0 < s.len → inByte s 0 = some 10#8 → step s = exec .magic s)

/-- R122: MAGIC raises TruncatedStream when LEN < 128. -/
def Obligations.ShortHeaderIsTruncated : Prop :=
  ∀ s : State, s.len < 128 →
    exec .magic s = .next { s with err := .truncatedStream, errinfo := 0#16, status := .error, pix := none }

/-- MAGIC on a loaded file with a bounding box that is not empty: the header registers hold the words of the address
map, WIDTH and HEIGHT the dimensions over the integers, PIX exists with no byte written, and STATUS is DISPATCH
(R122 to R125). The default AW is unbounded (log 7). -/
def Obligations.MagicLoadsTheHeader : Prop :=
  ∀ s : State, s.input.wf → Loaded s → 128 ≤ s.len →
    (wordAt s 4).toNat ≤ (wordAt s 8).toNat → (wordAt s 6).toNat ≤ (wordAt s 10).toNat →
    exec .magic s = .next { s with
      hdr := headerAt s
      width := (wordAt s 8).toNat - (wordAt s 4).toNat + 1
      height := (wordAt s 10).toNat - (wordAt s 6).toNat + 1
      pix := some []
      status := .dispatch }

/-- With XMAX < XMIN or YMAX < YMIN, MAGIC raises InvalidDimensions; nothing is recorded besides the code, and WIDTH and
HEIGHT hold the computed values (R212). That the header registers loaded before the raise stay in ERROR is DEDUCED from
R28 and R216 against a sentence of R220 (log 13), and that the header words are unsigned and the dimensions integers is
the spec's decision D11 (log 23). -/
def Obligations.EmptyBoundingBoxRaises : Prop :=
  ∀ s : State, s.input.wf → Loaded s → 128 ≤ s.len →
    (wordAt s 8).toNat < (wordAt s 4).toNat ∨ (wordAt s 10).toNat < (wordAt s 6).toNat →
    exec .magic s = .next { s with
      hdr := headerAt s
      width := (wordAt s 8).toNat - (wordAt s 4).toNat + 1
      height := (wordAt s 10).toNat - (wordAt s 6).toNat + 1
      err := .invalidDimensions
      errinfo := 0#16
      pix := none
      status := .error }

/-- R99, R126: the DISPATCH step selects IDX8 for (8, 1), RGB24 for (8, 3) and BP1 for (1, 1 to 4), as the meanings of
the three keys do in every state, and raises UnsupportedFormat for every other pair, with BPP in ERRINFO[7:0] and
NPLANES in ERRINFO[15:8]. -/
def Obligations.DispatchSelectsTheMode : Prop :=
  (∀ (s : State) (planes : Byte),
    exec .modeIdx8 s = .next { s with mode := .idx8, status := .palload } ∧
    exec .modeRgb24 s = .next { s with mode := .rgb24, status := .palload } ∧
    exec (.modeBp1 planes) s = .next { s with mode := .bp1, status := .palload }) ∧
  (∀ s : State, s.host = [] → s.status = .dispatch →
    (∀ m, SupportedPair s.hdr.bpp s.hdr.nplanes m → step s = .next { s with mode := m, status := .palload }) ∧
    ((∀ m, ¬ SupportedPair s.hdr.bpp s.hdr.nplanes m) →
      ∃ info : BitVec 16, info.extractLsb' 0 8 = s.hdr.bpp ∧ info.extractLsb' 8 8 = s.hdr.nplanes ∧
        step s = .next { s with err := .unsupportedFormat, errinfo := info, status := .error, pix := none }))

/-- R128: the PALLOAD step of IDX8 mode raises TruncatedStream when LEN < 769, raises MissingPalette when the byte at
LEN−769 is not 12, and otherwise runs PALMARK. -/
def Obligations.MarkerIsChecked : Prop :=
  ∀ s : State, s.host = [] → s.status = .palload → s.mode = .idx8 →
    (s.len < 769 →
      step s = .next { s with err := .truncatedStream, errinfo := 0#16, status := .error, pix := none }) ∧
    (769 ≤ s.len → ∀ b, inByte s (s.len - 769) = some b → b ≠ 12#8 →
      step s = .next { s with err := .missingPalette, errinfo := 0#16, status := .error, pix := none }) ∧
    (769 ≤ s.len → inByte s (s.len - 769) = some 12#8 → step s = exec .palmark s)

/-- PALMARK on a loaded file of at least 769 bytes: PAL[j] is IN[LEN−768+j], and the engine is initialised (R128, R150,
R158). With LEN < 769 it raises TruncatedStream. -/
def Obligations.PalmarkLoadsThePalette : Prop :=
  ∀ s : State, s.input.wf → Loaded s →
    (769 ≤ s.len → exec .palmark s = .next { s with
      pal := Vector.ofFn fun j => inAt s (s.len - 768 + j.val)
      cur := 128, runlen := 0#6, row := 0#17, pln := 0#3, bcnt := 0#16
      acc := if s.mode = .bp1 then List.replicate s.width.toNat 0#4 else s.acc
      status := if s.hdr.bpl.toNat = 0 then .done else .decode }) ∧
    (s.len < 769 →
      exec .palmark s = .next { s with err := .truncatedStream, errinfo := 0#16, status := .error, pix := none })

/-- R129, R130, R150: the PALLOAD step of BP1 mode copies HPAL into PAL[0..47] and keeps the rest, that of RGB24 mode
keeps PAL; both initialise the engine, ACC cleared in BP1 mode only, and go to DONE at once when BPL is 0. -/
def Obligations.PalloadWithoutMarker : Prop :=
  ∀ s : State, s.host = [] → s.status = .palload →
    (s.mode = .bp1 → ∃ t, step s = .next t ∧
      (∀ j, (h : j < 768) → t.pal[j] = if h' : j < 48 then s.hdr.hpal[j] else s.pal[j]) ∧
      t = { s with
        pal := t.pal, cur := 128, runlen := 0#6, row := 0#17, pln := 0#3, bcnt := 0#16,
        acc := List.replicate s.width.toNat 0#4, status := if s.hdr.bpl.toNat = 0 then .done else .decode }) ∧
    (s.mode = .rgb24 → step s = .next { s with
      cur := 128, runlen := 0#6, row := 0#17, pln := 0#3, bcnt := 0#16,
      status := if s.hdr.bpl.toNat = 0 then .done else .decode })

/-- What the configuration patterns leave unchanged when they give a next state: MAGIC writes the header, WIDTH,
HEIGHT and PIX, the keys MODE, PALMARK PAL and the engine's registers, each STATUS, and ERR and ERRINFO only by a
raise. No byte of IN changes. -/
def Obligations.ConfigurationFrame : Prop :=
  ∀ (i : Instr) (s t : State), exec i s = .next t →
    (i = .magic →
      (t.runlen = s.runlen ∧ t.runval = s.runval ∧ t.bcnt = s.bcnt ∧ t.pln = s.pln ∧ t.row = s.row ∧ t.cur = s.cur ∧
        t.len = s.len ∧ t.mode = s.mode ∧ t.pal = s.pal ∧ t.acc = s.acc ∧ t.epoch = s.epoch ∧ t.host = s.host ∧
        ∀ a, inByte t a = inByte s a) ∧
      (t.status = .error ∧ t.pix = none ∨
        t.status = .dispatch ∧ t.err = s.err ∧ t.errinfo = s.errinfo ∧ t.pix = some [])) ∧
    (i = .modeIdx8 ∨ i = .modeRgb24 ∨ (∃ p, i = .modeBp1 p) →
      t.status = .palload ∧ t = { s with mode := t.mode, status := t.status }) ∧
    (i = .palmark →
      (t.runval = s.runval ∧ t.len = s.len ∧ t.hdr = s.hdr ∧ t.width = s.width ∧ t.height = s.height ∧
        t.mode = s.mode ∧ t.epoch = s.epoch ∧ t.host = s.host ∧ ∀ a, inByte t a = inByte s a) ∧
      (s.len < 769 ∧ t.status = .error ∧ t.pal = s.pal ∧ t.acc = s.acc ∧ t.cur = s.cur ∧ t.runlen = s.runlen ∧
          t.row = s.row ∧ t.pln = s.pln ∧ t.bcnt = s.bcnt ∧ t.pix = none ∨
        769 ≤ s.len ∧ t.err = s.err ∧ t.errinfo = s.errinfo ∧ (s.mode ≠ .bp1 → t.acc = s.acc) ∧
          t.pix.isSome = s.pix.isSome ∧ ∀ a, pixByte t a = pixByte s a))

/-! ### The sinks (42_pixel_palette.md) -/

/-- R181: SINK.IDX8 writes PAL[3v], PAL[3v+1], PAL[3v+2], 255 at (ROW×WIDTH+BCNT)×4 and changes nothing else; a byte
with BCNT ≥ WIDTH is dropped. -/
def Obligations.Idx8SinkWritesOnePixel : Prop :=
  ∀ (s : State) (v : Byte) (m : Memory), s.mode = .idx8 → s.pix = some m →
    (s.width ≤ s.bcnt.toNat → sink v s = .next s) ∧
    ((s.bcnt.toNat : Int) < s.width → (s.row.toNat : Int) < s.height →
      ∃ t, sink v s = .next t ∧ t = { s with pix := t.pix } ∧
        ∀ a, pixByte t a =
          if a = pixAddr s s.bcnt.toNat then some (palColour s.pal v 0)
          else if a = pixAddr s s.bcnt.toNat + 1 then some (palColour s.pal v 1)
          else if a = pixAddr s s.bcnt.toNat + 2 then some (palColour s.pal v 2)
          else if a = pixAddr s s.bcnt.toNat + 3 then some 0xFF#8
          else pixByte s a)

/-- R182: SINK.RGB24 writes the byte at channel PLN of the pixel at (ROW×WIDTH+BCNT)×4, and 255 at its fourth byte with
plane 2, and changes nothing else; a byte with BCNT ≥ WIDTH is dropped. -/
def Obligations.Rgb24SinkWritesOneChannel : Prop :=
  ∀ (s : State) (v : Byte) (m : Memory), s.mode = .rgb24 → s.pix = some m →
    (s.width ≤ s.bcnt.toNat → sink v s = .next s) ∧
    ((s.bcnt.toNat : Int) < s.width → (s.row.toNat : Int) < s.height → s.pln.toNat ≤ 2 →
      ∃ t, sink v s = .next t ∧ t = { s with pix := t.pix } ∧
        ∀ a, pixByte t a =
          if a = pixAddr s s.bcnt.toNat + s.pln.toNat then some v
          else if a = pixAddr s s.bcnt.toNat + 3 ∧ s.pln.toNat = 2 then some 0xFF#8
          else pixByte s a)

/-- SINK.BP1 (R183, R185): for each of the eight columns x = 8×BCNT+i below WIDTH, bit 7−i of the byte is OR-ed into bit
PLN of ACC[x], every other accumulator is unchanged, and with the last plane the pixel at x gets the palette entry
ACC[x] and 255; nothing else changes. Bit 7 for the leftmost column is PRESUMED (log 6). -/
def Obligations.Bp1SinkAccumulatesAndResolves : Prop :=
  ∀ (s : State) (v : Byte) (m : Memory), s.mode = .bp1 → s.pix = some m → s.acc.length = s.width.toNat →
    (s.row.toNat : Int) < s.height →
      ∃ t, sink v s = .next t ∧ t = { s with acc := t.acc, pix := t.pix } ∧ t.acc.length = s.acc.length ∧
        (∀ x < s.width.toNat, ∀ q < 4, (accAt t.acc x).getLsbD q =
          ((accAt s.acc x).getLsbD q || (x / 8 == s.bcnt.toNat && q == s.pln.toNat && v.getLsbD (7 - x % 8)))) ∧
        (s.pln.toNat + 1 ≠ s.hdr.nplanes.toNat → ∀ a, pixByte t a = pixByte s a) ∧
        (s.pln.toNat + 1 = s.hdr.nplanes.toNat → ∀ a,
          (∀ x < s.width.toNat, x / 8 = s.bcnt.toNat → a / 4 = s.row.toNat * s.width.toNat + x →
            pixByte t a = if h : a % 4 < 3 then some (palColour s.pal (accIndex t.acc x) ⟨a % 4, h⟩) else some 0xFF#8) ∧
          ((∀ x < s.width.toNat, x / 8 = s.bcnt.toNat → a / 4 ≠ s.row.toNat * s.width.toNat + x) →
            pixByte t a = pixByte s a))

/-- R187: a decoded byte whose columns all lie at or beyond WIDTH has no effect on PIX or on any register, whatever its
value, and still counts: the byte-step decrements RUNLEN and advances. In BP1
mode the bits of columns at or beyond WIDTH have no effect: bytes that agree on the columns of the image are one to the
sink, whichever bit is the leftmost. -/
def Obligations.PaddingIsDroppedAndCounted : Prop :=
  ∀ (s : State) (v : Byte),
    (s.mode ≠ .none → s.width ≤ (match s.mode with | .bp1 => 8 * s.bcnt.toNat | _ => s.bcnt.toNat : Nat) →
      sink v s = .next s ∧
      (s.host = [] → s.status = .decode → s.runlen ≠ 0#6 →
        step s = .next (advance { s with runlen := s.runlen - 1#6 }))) ∧
    (∀ w : Byte, s.mode = .bp1 → (∀ i < 8, ((8 * s.bcnt.toNat + i : Nat) : Int) < s.width →
      columnBit Config.bitOrder v i = columnBit Config.bitOrder w i) → sink v s = sink w s)

/-- What the delivery of a byte leaves unchanged, when it gives a next state: RUNVAL, CUR, the control registers but
STATUS, PAL, IN, and every byte of PIX outside the pixels of the columns the byte covers in the current row. -/
def Obligations.DeliveryFrame : Prop :=
  ∀ s t : State, deliver s = .next t →
    t.runval = s.runval ∧ t.cur = s.cur ∧ t.len = s.len ∧ t.hdr = s.hdr ∧ t.width = s.width ∧ t.height = s.height ∧
    t.mode = s.mode ∧ t.err = s.err ∧ t.errinfo = s.errinfo ∧ t.pal = s.pal ∧ t.epoch = s.epoch ∧ t.host = s.host ∧
    (s.mode ≠ .bp1 → t.acc = s.acc) ∧ (∀ a, inByte t a = inByte s a) ∧
    (s.mode = .idx8 → ∀ a, ¬ (pixAddr s s.bcnt.toNat ≤ a ∧ a < pixAddr s s.bcnt.toNat + 4) →
      pixByte t a = pixByte s a) ∧
    (s.mode = .rgb24 → ∀ a, a ≠ pixAddr s s.bcnt.toNat + s.pln.toNat →
      ¬ (s.pln = 2#3 ∧ a = pixAddr s s.bcnt.toNat + 3) → pixByte t a = pixByte s a) ∧
    (s.mode = .bp1 → ∀ a, (∀ i < 8, ¬ (pixAddr s (bp1Column s.bcnt i) ≤ a ∧ a < pixAddr s (bp1Column s.bcnt i) + 4)) →
      pixByte t a = pixByte s a)

/-! ### The byte-step and the loop nest (41_rle_stream.md) -/

/-- R155, R157, R158: the advance counts bytes within a plane, planes within a scanline, scanlines from the top; it
clears ACC when a new scanline of BP1 mode begins, and sets STATUS to DONE when ROW becomes HEIGHT. -/
def Obligations.AdvanceFollowsTheLoopNest : Prop :=
  ∀ s : State, s.bcnt.toNat < s.hdr.bpl.toNat → s.pln.toNat < s.hdr.nplanes.toNat → s.hdr.nplanes.toNat ≤ 4 →
    (s.row.toNat : Int) < s.height → s.height ≤ 65536 →
    (s.bcnt.toNat + 1 < s.hdr.bpl.toNat →
      (advance s).bcnt.toNat = s.bcnt.toNat + 1 ∧ advance s = { s with bcnt := (advance s).bcnt }) ∧
    (s.bcnt.toNat + 1 = s.hdr.bpl.toNat → s.pln.toNat + 1 < s.hdr.nplanes.toNat →
      (advance s).pln.toNat = s.pln.toNat + 1 ∧ advance s = { s with bcnt := 0#16, pln := (advance s).pln }) ∧
    (s.bcnt.toNat + 1 = s.hdr.bpl.toNat → s.pln.toNat + 1 = s.hdr.nplanes.toNat →
      (advance s).row.toNat = s.row.toNat + 1 ∧
      advance s = { s with
        bcnt := 0#16, pln := 0#3, row := (advance s).row
        acc := if s.mode = .bp1 ∧ (s.row.toNat : Int) + 1 < s.height then List.replicate s.width.toNat 0#4 else s.acc
        status := if (s.row.toNat : Int) + 1 = s.height then .done else s.status })

/-- A byte-step of an active run decrements RUNLEN by one and keeps RUNVAL and CUR, also when it ends a plane, a
scanline or the image: a run is never cut at a boundary (R154, R156). -/
def Obligations.RunsCrossBoundaries : Prop :=
  ∀ s t : State, s.host = [] → s.status = .decode → s.runlen ≠ 0#6 → step s = .next t →
    t.runlen.toNat + 1 = s.runlen.toNat ∧ t.runval = s.runval ∧ t.cur = s.cur ∧
    (t.status = .decode ∨ t.status = .done)

/-- A byte-step under the invariant that does not raise moves the position by exactly one decoded byte, and the block
is DONE exactly when the position is HEIGHT × NPLANES × BPL (R155, R157, R160). -/
def Obligations.PositionMovesByOneByte : Prop :=
  ∀ s t : State, Inv s → s.host = [] → s.status = .decode → step s = .next t → t.status ≠ .error →
    position t = position s + 1 ∧ (t.status = .done ↔ position t = imageBytes s) ∧
    (t.status = .decode ↔ position t < imageBytes s)

/-- A byte-step delivers the next decoded byte of the stream: if one is still to come, the sink gets it and it is gone
from what is to come; if none is, the step raises TruncatedStream (R153, R154, R156). -/
def Obligations.ByteStepDeliversTheNextByte : Prop :=
  ∀ s : State, Inv s → Loaded s → s.host = [] → s.status = .decode →
    (∀ b rest, pending s = b :: rest → ∃ t, step s = .next t ∧ t.runval = b ∧ pending t = rest ∧
      ∃ u, sink b { s with runlen := t.runlen, runval := b, cur := t.cur } = .next u ∧ t = advance u) ∧
    (pending s = [] → ∃ t, step s = .next t ∧ t.status = .error ∧ t.err = .truncatedStream ∧ t.errinfo = 0#16 ∧
      t.pix = none)

/-- CUR never decreases and never exceeds LEN, and no step of DECODE changes LEN (R26). -/
def Obligations.CursorOnlyMovesForward : Prop :=
  ∀ s t : State, Inv s → s.host = [] → s.status = .decode → step s = .next t →
    s.cur ≤ t.cur ∧ t.cur ≤ t.len ∧ t.len = s.len

/-! ### Errors, reset, START, the host (60_exceptions.md, 70_reset_and_hazards.md) -/

/-- R219, R10: taking an exception writes ERR, ERRINFO and STATUS and nothing else, but that no byte of PIX has a value
any more; the block then takes no further step, so ERR and ERRINFO stay. -/
def Obligations.RaiseWritesThreeRegisters : Prop :=
  ∀ (e : Err) (info : BitVec 16) (s : State),
    raise e info s = { s with err := e, errinfo := info, status := .error, pix := (raise e info s).pix } ∧
    (∀ a, pixByte (raise e info s) a = none ∧ hostReadPix a (raise e info s) = none) ∧
    (s.host = [] → step (raise e info s) = .next (raise e info s))

/-- Each of the five errors is raised in its phase and by its cause only, and nothing else raises one (the causes of
60_exceptions.md section 1). The cause of InvalidDimensions is read from the header registers, and that of
TruncatedStream in DECODE from CUR, in ERROR: that they keep there what the step wrote before it raised is DEDUCED
(log 13; R28 warns against such reads). The spec's decisions it rests on (log 23): the empty input and the lengths 128 and
769 (D8 to D10), ERRINFO (D7), the unsigned header words (D11), skipped zero-count runs (D14, log 5), the limit LEN in
every mode (D19), and the supported pairs, with 1 bit and 2 planes among them (D13, log 8). -/
def Obligations.EveryErrorHasItsCause : Prop :=
  ∀ s t : State, s.host = [] → step s = .next t → s.status ≠ .error → t.status = .error →
    (t.err ≠ .unsupportedFormat → t.errinfo = 0#16) ∧
    match t.err with
    | .none => False
    | .invalidMagic => s.status = .hdr ∧ (s.len = 0 ∨ ∃ b, inByte s 0 = some b ∧ b ≠ 10#8)
    | .invalidDimensions => s.status = .hdr ∧ 128 ≤ s.len ∧
        (t.hdr.xmax.toNat < t.hdr.xmin.toNat ∨ t.hdr.ymax.toNat < t.hdr.ymin.toNat)
    | .unsupportedFormat => s.status = .dispatch ∧ (∀ m, ¬ SupportedPair s.hdr.bpp s.hdr.nplanes m) ∧
        t.errinfo.extractLsb' 0 8 = s.hdr.bpp ∧ t.errinfo.extractLsb' 8 8 = s.hdr.nplanes
    | .missingPalette => s.status = .palload ∧ s.mode = .idx8 ∧ 769 ≤ s.len ∧
        ∃ b, inByte s (s.len - 769) = some b ∧ b ≠ 12#8
    | .truncatedStream =>
        (s.status = .hdr ∧ s.len < 128 ∧ inByte s 0 = some 10#8) ∨
        (s.status = .palload ∧ s.mode = .idx8 ∧ s.len < 769) ∨
        (s.status = .decode ∧ s.runlen = 0#6 ∧
          (t.len ≤ t.cur ∨ t.cur + 1 = t.len ∧ ∃ c, inByte t t.cur = some c ∧ isRun c = true))

/-- The phases follow one another: HDR, DISPATCH, PALLOAD, DECODE (or DONE at once when BPL is 0), DONE; any busy phase
can go to ERROR instead, and the quiescent phases stay (R38). -/
def Obligations.PhasesFollowInOrder : Prop :=
  ∀ s t : State, s.host = [] → step s = .next t →
    match s.status with
    | .idle => t.status = .idle
    | .hdr => t.status = .dispatch ∨ t.status = .error
    | .dispatch => t.status = .palload ∨ t.status = .error
    | .palload => (t.status = .decode ∧ s.hdr.bpl ≠ 0#16) ∨ (t.status = .done ∧ s.hdr.bpl = 0#16) ∨ t.status = .error
    | .decode => t.status = .decode ∨ t.status = .done ∨ t.status = .error
    | .done => t.status = .done
    | .error => t.status = .error

/-- R229: in IDLE, DONE and ERROR the block takes no step and all state survives, over any number of steps; no move of
the host but START and reset wakes it. -/
def Obligations.QuiescentPhasesKeepAllState : Prop :=
  ∀ s : State, s.status = .idle ∨ s.status = .done ∨ s.status = .error →
    (s.host = [] → ∀ k, Sys2Proof.core.run k s = .next s) ∧
    (∀ m rest, s.host = m :: rest → m ≠ .start → m ≠ .reset → ∃ t, step s = .next t ∧
      t = { s with len := t.len, input := t.input, host := rest })

/-- R250: reset, in every phase, gives STATUS = IDLE, ERR = ERRINFO = 0, MODE = NONE and no PIX, as the state after
reset has them. -/
def Obligations.ResetIsTakenInEveryPhase : Prop :=
  ∀ (s : State) (rest : List HostMove), s.host = .reset :: rest →
    ∃ t, step s = .next t ∧ t.status = .idle ∧ t.err = .none ∧ t.errinfo = 0#16 ∧ t.mode = .none ∧ t.pix = none ∧
      t.host = rest ∧ (∀ a, inByte t a = none) ∧
      State.reset.status = .idle ∧ State.reset.err = .none ∧ State.reset.errinfo = 0#16 ∧
      State.reset.mode = .none ∧ State.reset.pix = none

/-- R120: START while BUSY has no effect; otherwise it clears ERR, ERRINFO and MODE, keeps LEN and IN, makes PIX absent
and sets STATUS to HDR. (The registers it leaves unspecified take free values, log 4: nothing is said of them.) -/
def Obligations.StartBeginsOnlyWhenNotBusy : Prop :=
  ∀ (s : State) (rest : List HostMove), s.host = .start :: rest →
    (busy s = true → step s = .next { s with host := rest }) ∧
    (busy s = false → ∃ t, step s = .next t ∧ t.status = .hdr ∧ t.err = .none ∧ t.errinfo = 0#16 ∧ t.mode = .none ∧
      t.pix = none ∧ t.len = s.len ∧ (∀ a, inByte t a = inByte s a) ∧ t.host = rest ∧ t.epoch = s.epoch + 1)

/-- A host write to IN or LEN is taken when the block is not BUSY and changes that byte or LEN alone; while BUSY it has
no move (R257, R264). -/
def Obligations.HostWritesOnlyWhenNotBusy : Prop :=
  ∀ (s : State) (rest : List HostMove) (a n : Nat) (b : Byte),
    (busy s = false →
      (s.host = .writeIn a b :: rest → ∃ t, step s = .next t ∧ t = { s with input := t.input, host := rest } ∧
        ∀ k, inByte t k = if k = a then some b else inByte s k) ∧
      (s.host = .writeLen n :: rest → step s = .next { s with len := n, host := rest })) ∧
    (busy s = true →
      (s.host = .writeIn a b :: rest → step s = .refused (.hostWriteWhileBusy a)) ∧
      (s.host = .writeLen n :: rest → step s = .refused .hostLenWhileBusy))

/-- What a host read gives: STATUS, as its number, in every phase; ERR, as its number, and ERRINFO whenever the block is
not BUSY; every other register, HPAL and PIX in DONE only, each register its own field (R258, R264; log 21). The numbers
of STATUS, MODE and ERR are those of R28 and R210, decisions D3, D5 and D6 of the spec (log 23). BUSY is as R27 has it. -/
def Obligations.HostReadsAfterTheEnd : Prop :=
  ∀ s : State,
    (busy s = true ↔ s.status = .hdr ∨ s.status = .dispatch ∨ s.status = .palload ∨ s.status = .decode) ∧
    hostReadReg .status s = some (match s.status with
      | .idle => 0 | .hdr => 1 | .dispatch => 2 | .palload => 3 | .decode => 4 | .done => 5 | .error => 6) ∧
    (hostReadReg .err s = if busy s then none else some (match s.err with
      | .none => 0 | .invalidMagic => 1 | .invalidDimensions => 2 | .unsupportedFormat => 3 | .missingPalette => 4
      | .truncatedStream => 5)) ∧
    (hostReadReg .errinfo s = if busy s then none else some (s.errinfo.toNat : Int)) ∧
    (∀ r, busy s = true → r ≠ .status → hostReadReg r s = none) ∧
    (∀ r, s.status ≠ .done → r ≠ .status → r ≠ .err → r ≠ .errinfo → hostReadReg r s = none) ∧
    (s.status = .done →
      hostReadReg .len s = some (s.len : Int) ∧
      hostReadReg .version s = some (s.hdr.version.toNat : Int) ∧
      hostReadReg .encoding s = some (s.hdr.encoding.toNat : Int) ∧
      hostReadReg .bpp s = some (s.hdr.bpp.toNat : Int) ∧
      hostReadReg .xmin s = some (s.hdr.xmin.toNat : Int) ∧
      hostReadReg .ymin s = some (s.hdr.ymin.toNat : Int) ∧
      hostReadReg .xmax s = some (s.hdr.xmax.toNat : Int) ∧
      hostReadReg .ymax s = some (s.hdr.ymax.toNat : Int) ∧
      hostReadReg .hdpi s = some (s.hdr.hdpi.toNat : Int) ∧
      hostReadReg .vdpi s = some (s.hdr.vdpi.toNat : Int) ∧
      hostReadReg .nplanes s = some (s.hdr.nplanes.toNat : Int) ∧
      hostReadReg .bpl s = some (s.hdr.bpl.toNat : Int) ∧
      hostReadReg .width s = some s.width ∧
      hostReadReg .height s = some s.height ∧
      hostReadReg .mode s = some (match s.mode with | .none => 0 | .idx8 => 1 | .rgb24 => 2 | .bp1 => 3) ∧
      hostReadReg .runlen s = some (s.runlen.toNat : Int) ∧
      hostReadReg .runval s = some (s.runval.toNat : Int) ∧
      hostReadReg .bcnt s = some (s.bcnt.toNat : Int) ∧
      hostReadReg .pln s = some (s.pln.toNat : Int) ∧
      hostReadReg .row s = some (s.row.toNat : Int) ∧
      hostReadReg .cur s = some (s.cur : Int)) ∧
    (∀ j, hostReadHpal j s = if s.status = .done then some s.hdr.hpal[j] else none) ∧
    (∀ a, hostReadPix a s = if s.status = .done ∧ a < pixSize s then pixByte s a else none)

/-! ### Invariants of every step -/

/-- The invariant of the phases holds after reset. -/
def Obligations.InvariantHoldsAtReset : Prop := Inv State.reset

/-- Every step keeps the invariant of the phases: from every state that meets it, whatever move comes next. -/
def Obligations.EveryStepKeepsTheInvariant : Prop :=
  ∀ s t : State, Inv s → step s = .next t → Inv t

/-- Every step keeps PIX covered: it holds exactly the bytes whose decoded byte was delivered before the current
position, each column of every row up to COVER when the image is complete, and none beyond (R66, R189). -/
def Obligations.EveryStepKeepsTheCoverage : Prop :=
  ∀ s t : State, Inv s → Covered s → step s = .next t → Covered t

/-- The block writes neither IN nor LEN, and a step of DECODE writes none of the header registers, WIDTH, HEIGHT, MODE
and PAL (R74, R29, R42). -/
def Obligations.BlockNeverWritesItsInputs : Prop :=
  ∀ s t : State, s.host = [] → step s = .next t →
    t.input = s.input ∧ t.len = s.len ∧ t.epoch = s.epoch ∧ t.host = [] ∧
    (s.status = .decode →
      t.hdr = s.hdr ∧ t.width = s.width ∧ t.height = s.height ∧ t.mode = s.mode ∧ t.pal = s.pal)

/-- A byte of PIX that holds a value keeps it in every later step of DECODE that does not raise: each byte is written
at most once (R66). -/
def Obligations.PixBytesAreWrittenOnce : Prop :=
  ∀ (s t : State) (a : Nat) (b : Byte), Inv s → Covered s → s.host = [] → s.status = .decode → step s = .next t →
    t.status ≠ .error → pixByte s a = some b → pixByte t a = some b

/-- A completed decode has written exactly the columns below COVER of every row, COVER being BPL in the 8-bit modes and
8×BPL in BP1 mode: every byte of PIX when COVER ≥ WIDTH, and no byte at all when BPL is 0 (R189). -/
def Obligations.CompletedDecodeCoversTheColumns : Prop :=
  ∀ s : State, Inv s → Covered s → s.status = .done →
    ∀ a < pixSize s, ((hostReadPix a s).isSome ↔
      columnOf s a < (match s.mode with | .bp1 => 8 * s.hdr.bpl.toNat | _ => s.hdr.bpl.toNat))

/-- From a state that meets the invariant, with the whole file in IN, the block's step is neither a fault nor a
refusal: no rule reads a location without a value and no PIX write is out of range (R47, R190, R191). The default AW
is unbounded (log 7). -/
def Obligations.LoadedBlockNeverStops : Prop :=
  ∀ s : State, Inv s → Loaded s → s.host = [] → ∃ t, step s = .next t ∧ Loaded t

/-! ### Whole runs -/

/-- The three phase steps report the first check that fails, in the order of R217: bad magic, LEN < 128, bad
dimensions, unsupported format, LEN < 769 in IDX8 mode, missing marker; with no failed check the block decodes or, with
BPL = 0, is done. The spec's decisions it rests on (log 23): an empty input is InvalidMagic (D8), the two length checks
(D9, D10) and their places in the order (D24), the unsigned header words (D11), the pair of 1 bit and 2 planes accepted
(D13, log 8), and BPL = 0 (D34). -/
def Obligations.ConfigurationReportsTheFirstError : Prop :=
  ∀ s : State, Inv s → Loaded s → s.host = [] → s.status = .hdr →
    ∃ t, Sys2Proof.core.run 3 s = .next t ∧ t.err = configError s ∧
      (configError s = .none → t.hdr = headerAt s ∧
        (t.status = .decode ∧ t.hdr.bpl ≠ 0#16 ∨ t.status = .done ∧ t.hdr.bpl = 0#16)) ∧
      (configError s ≠ .none → t.status = .error)

/-- Every decode ends within HEIGHT × NPLANES × BPL byte-steps, in DONE when the stream gives that many decoded bytes
before the end of the input, and in TruncatedStream otherwise (R153, R157, R262). -/
def Obligations.DecodeEndsAsTheStreamLengthSays : Prop :=
  ∀ s : State, DecodeEntry s →
    ∃ t, Sys2Proof.core.run (imageBytes s) s = .next t ∧
      (imageBytes s ≤ (expand (inputFrom s 128)).length → t.status = .done ∧ t.err = .none) ∧
      ((expand (inputFrom s 128)).length < imageBytes s →
        t.status = .error ∧ t.err = .truncatedStream ∧ t.errinfo = 0#16)

/-- Every START on a loaded file ends in DONE or ERROR, after at most 3 phase steps and HEIGHT × NPLANES × BPL
byte-steps (R161, R262). -/
def Obligations.EveryStartEnds : Prop :=
  ∀ s : State, Inv s → Loaded s → busy s = false → s.host = [.start] →
    ∃ k t, Sys2Proof.core.run (k + 1) s = .next t ∧ Ended t ∧ k ≤ 3 + imageBytes t

/-- A completed decode leaves in PIX exactly the image its decoded bytes stand for: every covered pixel has the colour
of its palette index, or its three channels, with A = 255, and every other byte has no value (R181 to R189). The bit
order of the 1-bit mode is PRESUMED (log 6). -/
def Obligations.DecodedImageIsTheStreamsImage : Prop :=
  ∀ (s t : State) (k : Nat), DecodeEntry s → Sys2Proof.core.run k s = .next t → t.status = .done →
    ∀ a < pixSize s, hostReadPix a t = imageByte s (expand (inputFrom s 128)) a

/-- The result of a START is a function of LEN and IN alone: two instances that differ in every register, palette,
accumulator and earlier image, but not in LEN and IN, give the host the same reads after every number of steps, and
one stops only if the other does (R46, R254, R256). -/
def Obligations.StartResultDependsOnInputAlone : Prop :=
  ∀ (s u : State) (k : Nat), busy s = false → busy u = false → s.host = [.start] → u.host = [.start] →
    s.len = u.len → s.input = u.input →
    (∀ s', Sys2Proof.core.run (k + 1) s = .next s' →
      ∃ u', Sys2Proof.core.run (k + 1) u = .next u' ∧ SameResult s' u')

/-! ### Precision of exceptions (60_exceptions.md section 3) -/

/-- Exceptions are precise (R220): when a step raises, there is a state u in which the operations before the failing one
have completed and the failing one has done nothing, and the step ends in u with ERR, ERRINFO and STATUS written and PIX
without content; no later step is taken. Outside two cases u is the state before the step. For InvalidDimensions u has
the header the HDR step read from IN, and its dimensions (R123, R212, R216, R28). In DECODE u has CUR after the k whole
RUNs of count 0 the same byte-step skipped, at the token whose fetch failed, and in RUNVAL the value byte of the last of
them, or with k = 0 what it held; the step from u raises the same error. That these writes of the raising step stay,
against R220's first sentence, is DEDUCED (log 13); the skipped RUNs rest on ZERO_RUN = skip (log 5). -/
def Obligations.ExceptionsArePrecise : Prop :=
  ∀ s t : State, s.host = [] → step s = .next t → s.status ≠ .error → t.status = .error →
    step t = .next t ∧
    ∃ u : State, t = { u with err := t.err, errinfo := t.errinfo, status := .error, pix := none } ∧
      (t.err ≠ .invalidDimensions → s.status ≠ .decode → u = s) ∧
      (t.err = .invalidDimensions → s.status = .hdr ∧ readHeader s = .ok u.hdr ∧ u = { s with
        hdr := u.hdr
        width := dimension u.hdr.xmin u.hdr.xmax
        height := dimension u.hdr.ymin u.hdr.ymax }) ∧
      (s.status = .decode → t.err = .truncatedStream ∧ step u = .next t ∧ ∃ k,
        (∀ j < k, inByte s (s.cur + 2 * j) = some 0xC0#8) ∧
        (k = 0 ∧ u.runval = s.runval ∨ 0 < k ∧ inByte s (s.cur + 2 * k - 1) = some u.runval) ∧
        u = { s with runval := u.runval, cur := s.cur + 2 * k } ∧
        (u.len ≤ u.cur ∨ u.cur + 1 = u.len ∧ ∃ c, inByte u u.cur = some c ∧ isRun c = true))
end

