-- ==== Sys2Proof/Laws/Decode.lean ====
section
/-! SUPPORT. The laws of the decoder's parts: IS_RUN and the count of a control byte, and the expansion of a stream. -/

namespace Sys2Proof

/-- IS_RUN(c) is c ≥ 0xC0 (R27, R94). -/
theorem isRun_iff (c : Byte) : isRun c = true ↔ 0xC0 ≤ c.toNat := by
  revert c; decide

/-- The count of a control byte is the byte − 0xC0 (R93). -/
theorem runCount_toNat (c : Byte) (h : isRun c = true) : (runCount c).toNat + 0xC0 = c.toNat := by
  revert c; decide

/-- The control byte of a count, and its parts (R92). -/
theorem isRun_control (n : BitVec 6) : isRun (0b11#2 ++ n) = true := by
  revert n; decide

theorem runCount_control (n : BitVec 6) : runCount (0b11#2 ++ n) = n := by
  revert n; decide

theorem control_runCount (c : Byte) (h : isRun c = true) : 0b11#2 ++ runCount c = c := by
  revert c; decide

@[simp] theorem expand_nil : expand [] = [] := rfl

/-- A literal at the head of a stream gives itself (R151). -/
theorem expand_lit {c : Byte} (rest : List Byte) (h : isRun c = false) : expand (c :: rest) = c :: expand rest := by
  cases rest <;> simp [expand, h]

/-- A RUN at the head of a stream gives its value count times (R152). -/
theorem expand_run {c : Byte} (v : Byte) (rest : List Byte) (h : isRun c = true) :
    expand (c :: v :: rest) = List.replicate (runCount c).toNat v ++ expand rest := by
  simp [expand, h]

/-- A control byte without its value byte gives nothing (R153). -/
theorem expand_cut {c : Byte} (h : isRun c = true) : expand [c] = [] := by
  simp [expand, h]

/-- PLANESET holds the plane counts 1 to 4 (R6, R99). -/
theorem planeSet_iff (p : Byte) : Config.planeSet.contains p = true ↔ 1 ≤ p.toNat ∧ p.toNat ≤ 4 := by
  revert p; decide

end Sys2Proof
end

