-- ==== Sys2Proof/Laws/State.lean ====
section
/-! SUPPORT. One lemma for each field of each update of the state, true by definition: no later proof unfolds an
update. For START and the advance, the fields they keep and the ones a claim may speak of. -/

namespace Sys2Proof.Machine

variable (s : State)

/-! ### setToken -/

@[simp] theorem setToken_runlen (n : BitVec 6) (v : Byte) (k : Nat) : (setToken n v k s).runlen = n := rfl
@[simp] theorem setToken_runval (n : BitVec 6) (v : Byte) (k : Nat) : (setToken n v k s).runval = v := rfl
@[simp] theorem setToken_bcnt (n : BitVec 6) (v : Byte) (k : Nat) : (setToken n v k s).bcnt = s.bcnt := rfl
@[simp] theorem setToken_pln (n : BitVec 6) (v : Byte) (k : Nat) : (setToken n v k s).pln = s.pln := rfl
@[simp] theorem setToken_row (n : BitVec 6) (v : Byte) (k : Nat) : (setToken n v k s).row = s.row := rfl
@[simp] theorem setToken_cur (n : BitVec 6) (v : Byte) (k : Nat) : (setToken n v k s).cur = s.cur + k := rfl
@[simp] theorem setToken_len (n : BitVec 6) (v : Byte) (k : Nat) : (setToken n v k s).len = s.len := rfl
@[simp] theorem setToken_hdr (n : BitVec 6) (v : Byte) (k : Nat) : (setToken n v k s).hdr = s.hdr := rfl
@[simp] theorem setToken_width (n : BitVec 6) (v : Byte) (k : Nat) : (setToken n v k s).width = s.width := rfl
@[simp] theorem setToken_height (n : BitVec 6) (v : Byte) (k : Nat) : (setToken n v k s).height = s.height := rfl
@[simp] theorem setToken_mode (n : BitVec 6) (v : Byte) (k : Nat) : (setToken n v k s).mode = s.mode := rfl
@[simp] theorem setToken_status (n : BitVec 6) (v : Byte) (k : Nat) : (setToken n v k s).status = s.status := rfl
@[simp] theorem setToken_err (n : BitVec 6) (v : Byte) (k : Nat) : (setToken n v k s).err = s.err := rfl
@[simp] theorem setToken_errinfo (n : BitVec 6) (v : Byte) (k : Nat) : (setToken n v k s).errinfo = s.errinfo := rfl
@[simp] theorem setToken_pal (n : BitVec 6) (v : Byte) (k : Nat) : (setToken n v k s).pal = s.pal := rfl
@[simp] theorem setToken_acc (n : BitVec 6) (v : Byte) (k : Nat) : (setToken n v k s).acc = s.acc := rfl
@[simp] theorem setToken_input (n : BitVec 6) (v : Byte) (k : Nat) : (setToken n v k s).input = s.input := rfl
@[simp] theorem setToken_pix (n : BitVec 6) (v : Byte) (k : Nat) : (setToken n v k s).pix = s.pix := rfl
@[simp] theorem setToken_epoch (n : BitVec 6) (v : Byte) (k : Nat) : (setToken n v k s).epoch = s.epoch := rfl
@[simp] theorem setToken_host (n : BitVec 6) (v : Byte) (k : Nat) : (setToken n v k s).host = s.host := rfl

/-! ### setHeader -/

@[simp] theorem setHeader_runlen (h : Header) : (setHeader h s).runlen = s.runlen := rfl
@[simp] theorem setHeader_runval (h : Header) : (setHeader h s).runval = s.runval := rfl
@[simp] theorem setHeader_bcnt (h : Header) : (setHeader h s).bcnt = s.bcnt := rfl
@[simp] theorem setHeader_pln (h : Header) : (setHeader h s).pln = s.pln := rfl
@[simp] theorem setHeader_row (h : Header) : (setHeader h s).row = s.row := rfl
@[simp] theorem setHeader_cur (h : Header) : (setHeader h s).cur = s.cur := rfl
@[simp] theorem setHeader_len (h : Header) : (setHeader h s).len = s.len := rfl
@[simp] theorem setHeader_hdr (h : Header) : (setHeader h s).hdr = h := rfl
@[simp] theorem setHeader_width (h : Header) : (setHeader h s).width = s.width := rfl
@[simp] theorem setHeader_height (h : Header) : (setHeader h s).height = s.height := rfl
@[simp] theorem setHeader_mode (h : Header) : (setHeader h s).mode = s.mode := rfl
@[simp] theorem setHeader_status (h : Header) : (setHeader h s).status = s.status := rfl
@[simp] theorem setHeader_err (h : Header) : (setHeader h s).err = s.err := rfl
@[simp] theorem setHeader_errinfo (h : Header) : (setHeader h s).errinfo = s.errinfo := rfl
@[simp] theorem setHeader_pal (h : Header) : (setHeader h s).pal = s.pal := rfl
@[simp] theorem setHeader_acc (h : Header) : (setHeader h s).acc = s.acc := rfl
@[simp] theorem setHeader_input (h : Header) : (setHeader h s).input = s.input := rfl
@[simp] theorem setHeader_pix (h : Header) : (setHeader h s).pix = s.pix := rfl
@[simp] theorem setHeader_epoch (h : Header) : (setHeader h s).epoch = s.epoch := rfl
@[simp] theorem setHeader_host (h : Header) : (setHeader h s).host = s.host := rfl

/-! ### setDims -/

@[simp] theorem setDims_runlen (w h : Int) : (setDims w h s).runlen = s.runlen := rfl
@[simp] theorem setDims_runval (w h : Int) : (setDims w h s).runval = s.runval := rfl
@[simp] theorem setDims_bcnt (w h : Int) : (setDims w h s).bcnt = s.bcnt := rfl
@[simp] theorem setDims_pln (w h : Int) : (setDims w h s).pln = s.pln := rfl
@[simp] theorem setDims_row (w h : Int) : (setDims w h s).row = s.row := rfl
@[simp] theorem setDims_cur (w h : Int) : (setDims w h s).cur = s.cur := rfl
@[simp] theorem setDims_len (w h : Int) : (setDims w h s).len = s.len := rfl
@[simp] theorem setDims_hdr (w h : Int) : (setDims w h s).hdr = s.hdr := rfl
@[simp] theorem setDims_width (w h : Int) : (setDims w h s).width = w := rfl
@[simp] theorem setDims_height (w h : Int) : (setDims w h s).height = h := rfl
@[simp] theorem setDims_mode (w h : Int) : (setDims w h s).mode = s.mode := rfl
@[simp] theorem setDims_status (w h : Int) : (setDims w h s).status = s.status := rfl
@[simp] theorem setDims_err (w h : Int) : (setDims w h s).err = s.err := rfl
@[simp] theorem setDims_errinfo (w h : Int) : (setDims w h s).errinfo = s.errinfo := rfl
@[simp] theorem setDims_pal (w h : Int) : (setDims w h s).pal = s.pal := rfl
@[simp] theorem setDims_acc (w h : Int) : (setDims w h s).acc = s.acc := rfl
@[simp] theorem setDims_input (w h : Int) : (setDims w h s).input = s.input := rfl
@[simp] theorem setDims_pix (w h : Int) : (setDims w h s).pix = s.pix := rfl
@[simp] theorem setDims_epoch (w h : Int) : (setDims w h s).epoch = s.epoch := rfl
@[simp] theorem setDims_host (w h : Int) : (setDims w h s).host = s.host := rfl

/-! ### openPix -/

@[simp] theorem openPix_runlen : (openPix s).runlen = s.runlen := rfl
@[simp] theorem openPix_runval : (openPix s).runval = s.runval := rfl
@[simp] theorem openPix_bcnt : (openPix s).bcnt = s.bcnt := rfl
@[simp] theorem openPix_pln : (openPix s).pln = s.pln := rfl
@[simp] theorem openPix_row : (openPix s).row = s.row := rfl
@[simp] theorem openPix_cur : (openPix s).cur = s.cur := rfl
@[simp] theorem openPix_len : (openPix s).len = s.len := rfl
@[simp] theorem openPix_hdr : (openPix s).hdr = s.hdr := rfl
@[simp] theorem openPix_width : (openPix s).width = s.width := rfl
@[simp] theorem openPix_height : (openPix s).height = s.height := rfl
@[simp] theorem openPix_mode : (openPix s).mode = s.mode := rfl
@[simp] theorem openPix_status : (openPix s).status = .dispatch := rfl
@[simp] theorem openPix_err : (openPix s).err = s.err := rfl
@[simp] theorem openPix_errinfo : (openPix s).errinfo = s.errinfo := rfl
@[simp] theorem openPix_pal : (openPix s).pal = s.pal := rfl
@[simp] theorem openPix_acc : (openPix s).acc = s.acc := rfl
@[simp] theorem openPix_input : (openPix s).input = s.input := rfl
@[simp] theorem openPix_pix : (openPix s).pix = .some [] := rfl
@[simp] theorem openPix_epoch : (openPix s).epoch = s.epoch := rfl
@[simp] theorem openPix_host : (openPix s).host = s.host := rfl

/-! ### selectMode -/

@[simp] theorem selectMode_runlen (m : Mode) : (selectMode m s).runlen = s.runlen := rfl
@[simp] theorem selectMode_runval (m : Mode) : (selectMode m s).runval = s.runval := rfl
@[simp] theorem selectMode_bcnt (m : Mode) : (selectMode m s).bcnt = s.bcnt := rfl
@[simp] theorem selectMode_pln (m : Mode) : (selectMode m s).pln = s.pln := rfl
@[simp] theorem selectMode_row (m : Mode) : (selectMode m s).row = s.row := rfl
@[simp] theorem selectMode_cur (m : Mode) : (selectMode m s).cur = s.cur := rfl
@[simp] theorem selectMode_len (m : Mode) : (selectMode m s).len = s.len := rfl
@[simp] theorem selectMode_hdr (m : Mode) : (selectMode m s).hdr = s.hdr := rfl
@[simp] theorem selectMode_width (m : Mode) : (selectMode m s).width = s.width := rfl
@[simp] theorem selectMode_height (m : Mode) : (selectMode m s).height = s.height := rfl
@[simp] theorem selectMode_mode (m : Mode) : (selectMode m s).mode = m := rfl
@[simp] theorem selectMode_status (m : Mode) : (selectMode m s).status = .palload := rfl
@[simp] theorem selectMode_err (m : Mode) : (selectMode m s).err = s.err := rfl
@[simp] theorem selectMode_errinfo (m : Mode) : (selectMode m s).errinfo = s.errinfo := rfl
@[simp] theorem selectMode_pal (m : Mode) : (selectMode m s).pal = s.pal := rfl
@[simp] theorem selectMode_acc (m : Mode) : (selectMode m s).acc = s.acc := rfl
@[simp] theorem selectMode_input (m : Mode) : (selectMode m s).input = s.input := rfl
@[simp] theorem selectMode_pix (m : Mode) : (selectMode m s).pix = s.pix := rfl
@[simp] theorem selectMode_epoch (m : Mode) : (selectMode m s).epoch = s.epoch := rfl
@[simp] theorem selectMode_host (m : Mode) : (selectMode m s).host = s.host := rfl

/-! ### setPal -/

@[simp] theorem setPal_runlen (p : Vector Byte 768) : (setPal p s).runlen = s.runlen := rfl
@[simp] theorem setPal_runval (p : Vector Byte 768) : (setPal p s).runval = s.runval := rfl
@[simp] theorem setPal_bcnt (p : Vector Byte 768) : (setPal p s).bcnt = s.bcnt := rfl
@[simp] theorem setPal_pln (p : Vector Byte 768) : (setPal p s).pln = s.pln := rfl
@[simp] theorem setPal_row (p : Vector Byte 768) : (setPal p s).row = s.row := rfl
@[simp] theorem setPal_cur (p : Vector Byte 768) : (setPal p s).cur = s.cur := rfl
@[simp] theorem setPal_len (p : Vector Byte 768) : (setPal p s).len = s.len := rfl
@[simp] theorem setPal_hdr (p : Vector Byte 768) : (setPal p s).hdr = s.hdr := rfl
@[simp] theorem setPal_width (p : Vector Byte 768) : (setPal p s).width = s.width := rfl
@[simp] theorem setPal_height (p : Vector Byte 768) : (setPal p s).height = s.height := rfl
@[simp] theorem setPal_mode (p : Vector Byte 768) : (setPal p s).mode = s.mode := rfl
@[simp] theorem setPal_status (p : Vector Byte 768) : (setPal p s).status = s.status := rfl
@[simp] theorem setPal_err (p : Vector Byte 768) : (setPal p s).err = s.err := rfl
@[simp] theorem setPal_errinfo (p : Vector Byte 768) : (setPal p s).errinfo = s.errinfo := rfl
@[simp] theorem setPal_pal (p : Vector Byte 768) : (setPal p s).pal = p := rfl
@[simp] theorem setPal_acc (p : Vector Byte 768) : (setPal p s).acc = s.acc := rfl
@[simp] theorem setPal_input (p : Vector Byte 768) : (setPal p s).input = s.input := rfl
@[simp] theorem setPal_pix (p : Vector Byte 768) : (setPal p s).pix = s.pix := rfl
@[simp] theorem setPal_epoch (p : Vector Byte 768) : (setPal p s).epoch = s.epoch := rfl
@[simp] theorem setPal_host (p : Vector Byte 768) : (setPal p s).host = s.host := rfl

/-! ### decodeInit -/

@[simp] theorem decodeInit_runlen : (decodeInit s).runlen = 0#6 := rfl
@[simp] theorem decodeInit_runval : (decodeInit s).runval = s.runval := rfl
@[simp] theorem decodeInit_bcnt : (decodeInit s).bcnt = 0#16 := rfl
@[simp] theorem decodeInit_pln : (decodeInit s).pln = 0#3 := rfl
@[simp] theorem decodeInit_row : (decodeInit s).row = 0#17 := rfl
@[simp] theorem decodeInit_cur : (decodeInit s).cur = Config.hdrSize := rfl
@[simp] theorem decodeInit_len : (decodeInit s).len = s.len := rfl
@[simp] theorem decodeInit_hdr : (decodeInit s).hdr = s.hdr := rfl
@[simp] theorem decodeInit_width : (decodeInit s).width = s.width := rfl
@[simp] theorem decodeInit_height : (decodeInit s).height = s.height := rfl
@[simp] theorem decodeInit_mode : (decodeInit s).mode = s.mode := rfl
@[simp] theorem decodeInit_status : (decodeInit s).status = if s.hdr.bpl = 0#16 then .done else .decode := rfl
@[simp] theorem decodeInit_err : (decodeInit s).err = s.err := rfl
@[simp] theorem decodeInit_errinfo : (decodeInit s).errinfo = s.errinfo := rfl
@[simp] theorem decodeInit_pal : (decodeInit s).pal = s.pal := rfl
@[simp] theorem decodeInit_acc : (decodeInit s).acc = if s.mode = .bp1 then accClear s.width else s.acc := rfl
@[simp] theorem decodeInit_input : (decodeInit s).input = s.input := rfl
@[simp] theorem decodeInit_pix : (decodeInit s).pix = s.pix := rfl
@[simp] theorem decodeInit_epoch : (decodeInit s).epoch = s.epoch := rfl
@[simp] theorem decodeInit_host : (decodeInit s).host = s.host := rfl

/-! ### takeByte -/

@[simp] theorem takeByte_runlen : (takeByte s).runlen = s.runlen - 1#6 := rfl
@[simp] theorem takeByte_runval : (takeByte s).runval = s.runval := rfl
@[simp] theorem takeByte_bcnt : (takeByte s).bcnt = s.bcnt := rfl
@[simp] theorem takeByte_pln : (takeByte s).pln = s.pln := rfl
@[simp] theorem takeByte_row : (takeByte s).row = s.row := rfl
@[simp] theorem takeByte_cur : (takeByte s).cur = s.cur := rfl
@[simp] theorem takeByte_len : (takeByte s).len = s.len := rfl
@[simp] theorem takeByte_hdr : (takeByte s).hdr = s.hdr := rfl
@[simp] theorem takeByte_width : (takeByte s).width = s.width := rfl
@[simp] theorem takeByte_height : (takeByte s).height = s.height := rfl
@[simp] theorem takeByte_mode : (takeByte s).mode = s.mode := rfl
@[simp] theorem takeByte_status : (takeByte s).status = s.status := rfl
@[simp] theorem takeByte_err : (takeByte s).err = s.err := rfl
@[simp] theorem takeByte_errinfo : (takeByte s).errinfo = s.errinfo := rfl
@[simp] theorem takeByte_pal : (takeByte s).pal = s.pal := rfl
@[simp] theorem takeByte_acc : (takeByte s).acc = s.acc := rfl
@[simp] theorem takeByte_input : (takeByte s).input = s.input := rfl
@[simp] theorem takeByte_pix : (takeByte s).pix = s.pix := rfl
@[simp] theorem takeByte_epoch : (takeByte s).epoch = s.epoch := rfl
@[simp] theorem takeByte_host : (takeByte s).host = s.host := rfl

/-! ### setAcc -/

@[simp] theorem setAcc_runlen (l : List (BitVec 4)) : (setAcc l s).runlen = s.runlen := rfl
@[simp] theorem setAcc_runval (l : List (BitVec 4)) : (setAcc l s).runval = s.runval := rfl
@[simp] theorem setAcc_bcnt (l : List (BitVec 4)) : (setAcc l s).bcnt = s.bcnt := rfl
@[simp] theorem setAcc_pln (l : List (BitVec 4)) : (setAcc l s).pln = s.pln := rfl
@[simp] theorem setAcc_row (l : List (BitVec 4)) : (setAcc l s).row = s.row := rfl
@[simp] theorem setAcc_cur (l : List (BitVec 4)) : (setAcc l s).cur = s.cur := rfl
@[simp] theorem setAcc_len (l : List (BitVec 4)) : (setAcc l s).len = s.len := rfl
@[simp] theorem setAcc_hdr (l : List (BitVec 4)) : (setAcc l s).hdr = s.hdr := rfl
@[simp] theorem setAcc_width (l : List (BitVec 4)) : (setAcc l s).width = s.width := rfl
@[simp] theorem setAcc_height (l : List (BitVec 4)) : (setAcc l s).height = s.height := rfl
@[simp] theorem setAcc_mode (l : List (BitVec 4)) : (setAcc l s).mode = s.mode := rfl
@[simp] theorem setAcc_status (l : List (BitVec 4)) : (setAcc l s).status = s.status := rfl
@[simp] theorem setAcc_err (l : List (BitVec 4)) : (setAcc l s).err = s.err := rfl
@[simp] theorem setAcc_errinfo (l : List (BitVec 4)) : (setAcc l s).errinfo = s.errinfo := rfl
@[simp] theorem setAcc_pal (l : List (BitVec 4)) : (setAcc l s).pal = s.pal := rfl
@[simp] theorem setAcc_acc (l : List (BitVec 4)) : (setAcc l s).acc = l := rfl
@[simp] theorem setAcc_input (l : List (BitVec 4)) : (setAcc l s).input = s.input := rfl
@[simp] theorem setAcc_pix (l : List (BitVec 4)) : (setAcc l s).pix = s.pix := rfl
@[simp] theorem setAcc_epoch (l : List (BitVec 4)) : (setAcc l s).epoch = s.epoch := rfl
@[simp] theorem setAcc_host (l : List (BitVec 4)) : (setAcc l s).host = s.host := rfl

/-! ### raise -/

@[simp] theorem raise_runlen (e : Err) (i : BitVec 16) : (raise e i s).runlen = s.runlen := rfl
@[simp] theorem raise_runval (e : Err) (i : BitVec 16) : (raise e i s).runval = s.runval := rfl
@[simp] theorem raise_bcnt (e : Err) (i : BitVec 16) : (raise e i s).bcnt = s.bcnt := rfl
@[simp] theorem raise_pln (e : Err) (i : BitVec 16) : (raise e i s).pln = s.pln := rfl
@[simp] theorem raise_row (e : Err) (i : BitVec 16) : (raise e i s).row = s.row := rfl
@[simp] theorem raise_cur (e : Err) (i : BitVec 16) : (raise e i s).cur = s.cur := rfl
@[simp] theorem raise_len (e : Err) (i : BitVec 16) : (raise e i s).len = s.len := rfl
@[simp] theorem raise_hdr (e : Err) (i : BitVec 16) : (raise e i s).hdr = s.hdr := rfl
@[simp] theorem raise_width (e : Err) (i : BitVec 16) : (raise e i s).width = s.width := rfl
@[simp] theorem raise_height (e : Err) (i : BitVec 16) : (raise e i s).height = s.height := rfl
@[simp] theorem raise_mode (e : Err) (i : BitVec 16) : (raise e i s).mode = s.mode := rfl
@[simp] theorem raise_status (e : Err) (i : BitVec 16) : (raise e i s).status = .error := rfl
@[simp] theorem raise_err (e : Err) (i : BitVec 16) : (raise e i s).err = e := rfl
@[simp] theorem raise_errinfo (e : Err) (i : BitVec 16) : (raise e i s).errinfo = i := rfl
@[simp] theorem raise_pal (e : Err) (i : BitVec 16) : (raise e i s).pal = s.pal := rfl
@[simp] theorem raise_acc (e : Err) (i : BitVec 16) : (raise e i s).acc = s.acc := rfl
@[simp] theorem raise_input (e : Err) (i : BitVec 16) : (raise e i s).input = s.input := rfl
@[simp] theorem raise_pix (e : Err) (i : BitVec 16) : (raise e i s).pix = .none := rfl
@[simp] theorem raise_epoch (e : Err) (i : BitVec 16) : (raise e i s).epoch = s.epoch := rfl
@[simp] theorem raise_host (e : Err) (i : BitVec 16) : (raise e i s).host = s.host := rfl

/-! ### loadByte -/

@[simp] theorem loadByte_runlen (a : Nat) (b : Byte) : (loadByte a b s).runlen = s.runlen := rfl
@[simp] theorem loadByte_runval (a : Nat) (b : Byte) : (loadByte a b s).runval = s.runval := rfl
@[simp] theorem loadByte_bcnt (a : Nat) (b : Byte) : (loadByte a b s).bcnt = s.bcnt := rfl
@[simp] theorem loadByte_pln (a : Nat) (b : Byte) : (loadByte a b s).pln = s.pln := rfl
@[simp] theorem loadByte_row (a : Nat) (b : Byte) : (loadByte a b s).row = s.row := rfl
@[simp] theorem loadByte_cur (a : Nat) (b : Byte) : (loadByte a b s).cur = s.cur := rfl
@[simp] theorem loadByte_len (a : Nat) (b : Byte) : (loadByte a b s).len = s.len := rfl
@[simp] theorem loadByte_hdr (a : Nat) (b : Byte) : (loadByte a b s).hdr = s.hdr := rfl
@[simp] theorem loadByte_width (a : Nat) (b : Byte) : (loadByte a b s).width = s.width := rfl
@[simp] theorem loadByte_height (a : Nat) (b : Byte) : (loadByte a b s).height = s.height := rfl
@[simp] theorem loadByte_mode (a : Nat) (b : Byte) : (loadByte a b s).mode = s.mode := rfl
@[simp] theorem loadByte_status (a : Nat) (b : Byte) : (loadByte a b s).status = s.status := rfl
@[simp] theorem loadByte_err (a : Nat) (b : Byte) : (loadByte a b s).err = s.err := rfl
@[simp] theorem loadByte_errinfo (a : Nat) (b : Byte) : (loadByte a b s).errinfo = s.errinfo := rfl
@[simp] theorem loadByte_pal (a : Nat) (b : Byte) : (loadByte a b s).pal = s.pal := rfl
@[simp] theorem loadByte_acc (a : Nat) (b : Byte) : (loadByte a b s).acc = s.acc := rfl
@[simp] theorem loadByte_input (a : Nat) (b : Byte) : (loadByte a b s).input = s.input.write a b := rfl
@[simp] theorem loadByte_pix (a : Nat) (b : Byte) : (loadByte a b s).pix = s.pix := rfl
@[simp] theorem loadByte_epoch (a : Nat) (b : Byte) : (loadByte a b s).epoch = s.epoch := rfl
@[simp] theorem loadByte_host (a : Nat) (b : Byte) : (loadByte a b s).host = s.host := rfl

/-! ### setLen -/

@[simp] theorem setLen_runlen (n : Nat) : (setLen n s).runlen = s.runlen := rfl
@[simp] theorem setLen_runval (n : Nat) : (setLen n s).runval = s.runval := rfl
@[simp] theorem setLen_bcnt (n : Nat) : (setLen n s).bcnt = s.bcnt := rfl
@[simp] theorem setLen_pln (n : Nat) : (setLen n s).pln = s.pln := rfl
@[simp] theorem setLen_row (n : Nat) : (setLen n s).row = s.row := rfl
@[simp] theorem setLen_cur (n : Nat) : (setLen n s).cur = s.cur := rfl
@[simp] theorem setLen_len (n : Nat) : (setLen n s).len = n := rfl
@[simp] theorem setLen_hdr (n : Nat) : (setLen n s).hdr = s.hdr := rfl
@[simp] theorem setLen_width (n : Nat) : (setLen n s).width = s.width := rfl
@[simp] theorem setLen_height (n : Nat) : (setLen n s).height = s.height := rfl
@[simp] theorem setLen_mode (n : Nat) : (setLen n s).mode = s.mode := rfl
@[simp] theorem setLen_status (n : Nat) : (setLen n s).status = s.status := rfl
@[simp] theorem setLen_err (n : Nat) : (setLen n s).err = s.err := rfl
@[simp] theorem setLen_errinfo (n : Nat) : (setLen n s).errinfo = s.errinfo := rfl
@[simp] theorem setLen_pal (n : Nat) : (setLen n s).pal = s.pal := rfl
@[simp] theorem setLen_acc (n : Nat) : (setLen n s).acc = s.acc := rfl
@[simp] theorem setLen_input (n : Nat) : (setLen n s).input = s.input := rfl
@[simp] theorem setLen_pix (n : Nat) : (setLen n s).pix = s.pix := rfl
@[simp] theorem setLen_epoch (n : Nat) : (setLen n s).epoch = s.epoch := rfl
@[simp] theorem setLen_host (n : Nat) : (setLen n s).host = s.host := rfl

/-! ### setHost -/

@[simp] theorem setHost_runlen (h : List HostMove) : (setHost h s).runlen = s.runlen := rfl
@[simp] theorem setHost_runval (h : List HostMove) : (setHost h s).runval = s.runval := rfl
@[simp] theorem setHost_bcnt (h : List HostMove) : (setHost h s).bcnt = s.bcnt := rfl
@[simp] theorem setHost_pln (h : List HostMove) : (setHost h s).pln = s.pln := rfl
@[simp] theorem setHost_row (h : List HostMove) : (setHost h s).row = s.row := rfl
@[simp] theorem setHost_cur (h : List HostMove) : (setHost h s).cur = s.cur := rfl
@[simp] theorem setHost_len (h : List HostMove) : (setHost h s).len = s.len := rfl
@[simp] theorem setHost_hdr (h : List HostMove) : (setHost h s).hdr = s.hdr := rfl
@[simp] theorem setHost_width (h : List HostMove) : (setHost h s).width = s.width := rfl
@[simp] theorem setHost_height (h : List HostMove) : (setHost h s).height = s.height := rfl
@[simp] theorem setHost_mode (h : List HostMove) : (setHost h s).mode = s.mode := rfl
@[simp] theorem setHost_status (h : List HostMove) : (setHost h s).status = s.status := rfl
@[simp] theorem setHost_err (h : List HostMove) : (setHost h s).err = s.err := rfl
@[simp] theorem setHost_errinfo (h : List HostMove) : (setHost h s).errinfo = s.errinfo := rfl
@[simp] theorem setHost_pal (h : List HostMove) : (setHost h s).pal = s.pal := rfl
@[simp] theorem setHost_acc (h : List HostMove) : (setHost h s).acc = s.acc := rfl
@[simp] theorem setHost_input (h : List HostMove) : (setHost h s).input = s.input := rfl
@[simp] theorem setHost_pix (h : List HostMove) : (setHost h s).pix = s.pix := rfl
@[simp] theorem setHost_epoch (h : List HostMove) : (setHost h s).epoch = s.epoch := rfl
@[simp] theorem setHost_host (h : List HostMove) : (setHost h s).host = h := rfl

/-! ### start -/

@[simp] theorem start_len : (start s).len = s.len := rfl
@[simp] theorem start_input : (start s).input = s.input := rfl
@[simp] theorem start_host : (start s).host = s.host := rfl
@[simp] theorem start_mode : (start s).mode = .none := rfl
@[simp] theorem start_status : (start s).status = .hdr := rfl
@[simp] theorem start_err : (start s).err = .none := rfl
@[simp] theorem start_errinfo : (start s).errinfo = 0#16 := rfl
@[simp] theorem start_pix : (start s).pix = .none := rfl
@[simp] theorem start_epoch : (start s).epoch = s.epoch + 1 := rfl

/-! ### hostReset -/

@[simp] theorem hostReset_runlen : (hostReset s).runlen = State.reset.runlen := rfl
@[simp] theorem hostReset_runval : (hostReset s).runval = State.reset.runval := rfl
@[simp] theorem hostReset_bcnt : (hostReset s).bcnt = State.reset.bcnt := rfl
@[simp] theorem hostReset_pln : (hostReset s).pln = State.reset.pln := rfl
@[simp] theorem hostReset_row : (hostReset s).row = State.reset.row := rfl
@[simp] theorem hostReset_cur : (hostReset s).cur = State.reset.cur := rfl
@[simp] theorem hostReset_len : (hostReset s).len = State.reset.len := rfl
@[simp] theorem hostReset_hdr : (hostReset s).hdr = State.reset.hdr := rfl
@[simp] theorem hostReset_width : (hostReset s).width = State.reset.width := rfl
@[simp] theorem hostReset_height : (hostReset s).height = State.reset.height := rfl
@[simp] theorem hostReset_mode : (hostReset s).mode = State.reset.mode := rfl
@[simp] theorem hostReset_status : (hostReset s).status = State.reset.status := rfl
@[simp] theorem hostReset_err : (hostReset s).err = State.reset.err := rfl
@[simp] theorem hostReset_errinfo : (hostReset s).errinfo = State.reset.errinfo := rfl
@[simp] theorem hostReset_pal : (hostReset s).pal = State.reset.pal := rfl
@[simp] theorem hostReset_acc : (hostReset s).acc = State.reset.acc := rfl
@[simp] theorem hostReset_input : (hostReset s).input = State.reset.input := rfl
@[simp] theorem hostReset_pix : (hostReset s).pix = State.reset.pix := rfl
@[simp] theorem hostReset_epoch : (hostReset s).epoch = s.epoch := rfl
@[simp] theorem hostReset_host : (hostReset s).host = s.host := rfl

/-! ### State.reset -/

@[simp] theorem State.reset_mode : State.reset.mode = .none := rfl
@[simp] theorem State.reset_status : State.reset.status = .idle := rfl
@[simp] theorem State.reset_err : State.reset.err = .none := rfl
@[simp] theorem State.reset_errinfo : State.reset.errinfo = 0#16 := rfl
@[simp] theorem State.reset_pix : State.reset.pix = .none := rfl
@[simp] theorem State.reset_input : State.reset.input = [] := rfl
@[simp] theorem State.reset_host : State.reset.host = [] := rfl

/-! ### advance -/

@[simp] theorem advance_runlen : (advance s).runlen = s.runlen := by
  unfold advance; split <;> [split; skip] <;> rfl
@[simp] theorem advance_runval : (advance s).runval = s.runval := by
  unfold advance; split <;> [split; skip] <;> rfl
@[simp] theorem advance_cur : (advance s).cur = s.cur := by
  unfold advance; split <;> [split; skip] <;> rfl
@[simp] theorem advance_len : (advance s).len = s.len := by
  unfold advance; split <;> [split; skip] <;> rfl
@[simp] theorem advance_hdr : (advance s).hdr = s.hdr := by
  unfold advance; split <;> [split; skip] <;> rfl
@[simp] theorem advance_width : (advance s).width = s.width := by
  unfold advance; split <;> [split; skip] <;> rfl
@[simp] theorem advance_height : (advance s).height = s.height := by
  unfold advance; split <;> [split; skip] <;> rfl
@[simp] theorem advance_mode : (advance s).mode = s.mode := by
  unfold advance; split <;> [split; skip] <;> rfl
@[simp] theorem advance_err : (advance s).err = s.err := by
  unfold advance; split <;> [split; skip] <;> rfl
@[simp] theorem advance_errinfo : (advance s).errinfo = s.errinfo := by
  unfold advance; split <;> [split; skip] <;> rfl
@[simp] theorem advance_pal : (advance s).pal = s.pal := by
  unfold advance; split <;> [split; skip] <;> rfl
@[simp] theorem advance_input : (advance s).input = s.input := by
  unfold advance; split <;> [split; skip] <;> rfl
@[simp] theorem advance_pix : (advance s).pix = s.pix := by
  unfold advance; split <;> [split; skip] <;> rfl
@[simp] theorem advance_epoch : (advance s).epoch = s.epoch := by
  unfold advance; split <;> [split; skip] <;> rfl
@[simp] theorem advance_host : (advance s).host = s.host := by
  unfold advance; split <;> [split; skip] <;> rfl

/-- The advance within a scanline-plane (R155). -/
theorem advance_inPlane (h : s.bcnt.toNat + 1 ≠ s.hdr.bpl.toNat) : advance s = { s with bcnt := s.bcnt + 1#16 } := by
  simp only [advance, if_neg h]

/-- The advance to the next plane of a scanline (R155). -/
theorem advance_nextPlane (h : s.bcnt.toNat + 1 = s.hdr.bpl.toNat) (hp : s.pln.toNat + 1 ≠ s.hdr.nplanes.toNat) :
    advance s = { s with bcnt := 0#16, pln := s.pln + 1#3 } := by
  simp only [advance, if_pos h, if_neg hp]

/-- The advance to the next scanline, or to the end of the image (R155, R157). -/
theorem advance_nextRow (h : s.bcnt.toNat + 1 = s.hdr.bpl.toNat) (hp : s.pln.toNat + 1 = s.hdr.nplanes.toNat) :
    advance s = { s with
      bcnt := 0#16, pln := 0#3, row := s.row + 1#17,
      acc := if s.mode = .bp1 ∧ ((s.row + 1#17).toNat : Int) < s.height then accClear s.width else s.acc,
      status := if ((s.row + 1#17).toNat : Int) = s.height then .done else s.status } := by
  simp only [advance, if_pos h, if_pos hp]

/-- What the advance can do to STATUS: keep it, or end the image. -/
theorem advance_status_cases : (advance s).status = s.status ∨ (advance s).status = .done := by
  unfold advance
  split
  · split
    · dsimp only; split <;> simp
    · exact .inl rfl
  · exact .inl rfl

end Sys2Proof.Machine
end

