-- ==== Sys2Proof/Laws/Memory.lean ====
section
/-! SUPPORT. The laws of a memory space: a read after a write, and the canonical form, which every memory operation
keeps. A run of reads is the same as reading each address. -/

namespace Sys2Proof.Machine

/-- A read after a write to the same address gives the byte written; every other address reads as before. -/
theorem Memory.read_write (m : Memory) (a : Nat) (b : Byte) (k : Nat) :
    (m.write a b).read k = if k = a then some b else m.read k := by
  induction m with
  | nil => simp [Memory.write, Memory.read, eq_comm]
  | cons c rest ih =>
    obtain ⟨j, x⟩ := c
    simp only [Memory.write]
    split
    · simp [Memory.read, eq_comm]
    · split
      · next h => subst h; simp only [Memory.read]; grind
      · simp only [Memory.read, ih]; grind

@[simp] theorem Memory.read_write_same (m : Memory) (a : Nat) (b : Byte) : (m.write a b).read a = some b := by
  simp [Memory.read_write]

theorem Memory.read_write_other (m : Memory) {a k : Nat} (b : Byte) (h : k ≠ a) : (m.write a b).read k = m.read k := by
  simp [Memory.read_write, h]

/-- The cells after a write: the one written, and cells that were there. -/
theorem Memory.mem_write {m : Memory} {a : Nat} {b : Byte} {c : Host.Cell} (h : c ∈ m.write a b) :
    c = (a, b) ∨ c ∈ m := by
  induction m with
  | nil => simpa [Memory.write] using h
  | cons d rest ih =>
    obtain ⟨j, x⟩ := d
    simp only [Memory.write] at h
    split at h
    · simpa using h
    · split at h
      · simp only [List.mem_cons] at h ⊢; tauto
      · rcases List.mem_cons.1 h with h | h
        · simp [h]
        · rcases ih h with h | h <;> simp [h]

/-- A write keeps the canonical form. -/
theorem Memory.write_wf {m : Memory} (a : Nat) (b : Byte) (h : m.wf) : (m.write a b).wf := by
  induction m with
  | nil => simp [Memory.write]
  | cons d rest ih =>
    obtain ⟨j, x⟩ := d
    rw [Memory.wf, List.pairwise_cons] at h
    simp only [Memory.write]
    split
    · next hlt =>
      refine List.pairwise_cons.2 ⟨fun c hc => ?_, List.pairwise_cons.2 h⟩
      rcases List.mem_cons.1 hc with rfl | hc
      · exact hlt
      · exact hlt.trans (h.1 c hc)
    · split
      · next he => subst he; exact List.pairwise_cons.2 h
      · refine List.pairwise_cons.2 ⟨fun c hc => ?_, ih h.2⟩
        rcases Memory.mem_write hc with rfl | hc
        · simp only; omega
        · exact h.1 c hc

/-- An address that reads a value is the address of a cell. -/
theorem Memory.mem_of_read {m : Memory} {a : Nat} {b : Byte} (h : m.read a = some b) : (a, b) ∈ m := by
  induction m with
  | nil => simp [Memory.read] at h
  | cons d rest ih =>
    obtain ⟨j, x⟩ := d
    simp only [Memory.read] at h
    split at h
    · simp_all
    · exact List.mem_cons_of_mem _ (ih h)

/-- Below every listed address there is no value. -/
theorem Memory.read_none_of_lt {m : Memory} {a : Nat} (h : ∀ c ∈ m, a < c.1) : m.read a = none := by
  cases hr : m.read a with
  | none => rfl
  | some b => exact absurd (h _ (Memory.mem_of_read hr)) (Nat.lt_irrefl a)

/-- A run of reads that succeeds gives the byte at each address, in canonical memory. -/
theorem Memory.readRun_ok {m : Memory} (hm : m.wf) (a n : Nat) (acc : List Byte)
    (h : ∀ j < n, (m.read (a + j)).isSome) :
    m.readRun a n acc = .ok (acc.reverse ++ (List.range n).map fun j => (m.read (a + j)).getD 0#8) := by
  induction m generalizing a n acc with
  | nil =>
    cases n with
    | zero => simp [Memory.readRun]
    | succ n => simpa [Memory.read] using h 0 (by omega)
  | cons d rest ih =>
    obtain ⟨k, x⟩ := d
    rw [Memory.wf, List.pairwise_cons] at hm
    cases n with
    | zero => simp [Memory.readRun]
    | succ n =>
      simp only [Memory.readRun]
      split
      · next hk =>
        subst hk
        have hr : ∀ j, Memory.read ((k, x) :: rest) (k + 1 + j) = Memory.read rest (k + 1 + j) := fun j => by
          simp only [Memory.read]; rw [if_neg (by omega)]
        rw [ih hm.2 (k + 1) n (x :: acc) fun j hj => by
          have := h (j + 1) (by omega)
          rw [show k + (j + 1) = k + 1 + j by omega, hr] at this
          exact this]
        rw [List.range_succ_eq_map]
        have hs : ∀ j, Memory.read ((k, x) :: rest) (k + (j + 1)) = Memory.read rest (k + 1 + j) := fun j => by
          rw [show k + (j + 1) = k + 1 + j by omega, hr]
        have h0 : Memory.read ((k, x) :: rest) k = some x := by simp [Memory.read]
        simp [Function.comp_def, hs, h0]
      · next hk =>
        have h0 : ((if k = a then some x else Memory.read rest a)).isSome := by
          simpa [Memory.read] using h 0 (by omega)
        rw [if_neg hk] at h0
        have hlt : k < a := by
          by_contra hge
          rw [Memory.read_none_of_lt fun c hc => lt_trans (by omega) (hm.1 c hc)] at h0
          simp at h0
        rw [if_pos hlt]
        have hr : ∀ j, Memory.read ((k, x) :: rest) (a + j) = Memory.read rest (a + j) := fun j => by
          simp only [Memory.read]; rw [if_neg (by omega)]
        simp only [hr] at h ⊢
        exact ih hm.2 a (n + 1) acc h

/-- `memRead1` at an address below LEN that holds a byte. -/
theorem memRead1_of_read {s : State} {a : Nat} {b : Byte} (ha : a < s.len) (h : s.input.read a = some b) :
    memRead1 s a = .ok b := by
  simp [memRead1, ha, h]

/-- What a successful `memRead1` says. -/
theorem memRead1_ok {s : State} {a : Nat} {b : Byte} (h : memRead1 s a = .ok b) :
    a < s.len ∧ s.input.read a = some b := by
  unfold memRead1 at h
  split at h
  · split at h <;> simp_all
  · cases h

/-- `memRead2` reads two bytes, the lower address first (R60). -/
theorem memRead2_of_read {s : State} {a : Nat} {lo hi : Byte} (h : a + 1 < s.len) (hlo : s.input.read a = some lo)
    (hhi : s.input.read (a + 1) = some hi) : memRead2 s a = .ok (le16 lo hi) := by
  simp [memRead2, memRead1_of_read (Nat.lt_of_succ_lt h) hlo, memRead1_of_read h hhi]

/-- A run of single-byte reads of a loaded range gives the byte at each address. -/
theorem readBytes_of_loaded {s : State} (hm : s.input.wf) (a n : Nat) (hn : a + n ≤ s.len)
    (h : ∀ j < n, (s.input.read (a + j)).isSome) :
    readBytes s a n = .ok (Vector.ofFn fun j : Fin n => (s.input.read (a + j.val)).getD 0#8) := by
  unfold readBytes
  rw [if_pos hn]
  have hr := Memory.readRun_ok hm a n [] h
  split
  · next bs hbs =>
    rw [hr] at hbs
    cases hbs
    congr 1
    ext j hj
    simp
  · next k hk => rw [hr] at hk; cases hk

end Sys2Proof.Machine
end

