-- ==== Sys2Proof/Laws/Ops.lean ====
section
/-! SUPPORT. What each shared operation can do, said once: outcomes in sequence, the PIX write, the exception, and the
addresses of PIX. -/

namespace Sys2Proof.Machine

/-! ### Outcomes in sequence -/

@[simp] theorem andThen_next (s : State) (k : State → Result) : andThen (.next s) k = k s := rfl
@[simp] theorem andThen_fault (r : Fault) (k : State → Result) : andThen (.fault r) k = .fault r := rfl
@[simp] theorem andThen_refused (r : Refusal) (k : State → Result) : andThen (.refused r) k = .refused r := rfl
@[simp] theorem withRead_ok {α : Type} (a : α) (k : α → Result) : withRead (.ok a) k = k a := rfl
@[simp] theorem withRead_error {α : Type} (f : Fault) (k : α → Result) : withRead (.error f) k = .fault f := rfl

/-- A sequence answers a next state exactly when both parts do. -/
theorem andThen_eq_next {o : Result} {k : State → Result} {t : State} :
    andThen o k = .next t ↔ ∃ s, o = .next s ∧ k s = .next t := by
  cases o <;> simp [andThen]

/-- A read goes on to a next state exactly when it succeeds and its continuation does. -/
theorem withRead_eq_next {α : Type} {r : Except Fault α} {k : α → Result} {t : State} :
    withRead r k = .next t ↔ ∃ a, r = .ok a ∧ k a = .next t := by
  cases r <;> simp [withRead]

theorem andThen_assoc (o : Result) (k l : State → Result) :
    andThen (andThen o k) l = andThen o fun s => andThen (k s) l := by
  cases o <;> rfl

/-! ### PIX -/

/-- A PIX write inside PIX stores the byte. -/
theorem memWrite_ok {s : State} {m : Memory} {a : Nat} (b : Byte) (h : s.pix = .some m) (ha : a < pixSize s) :
    memWrite a b s = .next { s with pix := .some (m.write a b) } := by
  simp [memWrite, h, ha]

/-- What a PIX write that goes on has done. -/
theorem memWrite_next {s t : State} {a : Nat} {b : Byte} (h : memWrite a b s = .next t) :
    ∃ m, s.pix = .some m ∧ a < pixSize s ∧ t = { s with pix := .some (m.write a b) } := by
  unfold memWrite at h
  split at h
  · cases h
  · next m hm =>
    split at h
    · next ha => exact ⟨m, hm, ha, by simpa using h.symm⟩
    · cases h

/-- The four bytes of a pixel of the image lie inside PIX (R191). -/
theorem pixAddr_inside {s : State} {x : Nat} (hx : (x : Int) < s.width) (hr : (s.row.toNat : Int) < s.height) :
    pixAddr s x + 3 < pixSize s := by
  have hw : x + 1 ≤ s.width.toNat := by omega
  have hh : s.row.toNat + 1 ≤ s.height.toNat := by omega
  have := Nat.mul_le_mul_right s.width.toNat hh
  unfold pixAddr pixSize
  rw [Nat.mul_comm s.width.toNat]
  nlinarith

/-- The memory after a pixel is written. -/
def pixelWritten (m : Memory) (a : Nat) (pal : Vector Byte 768) (idx : Byte) : Memory :=
  (((m.write a (palColour pal idx 0)).write (a + 1) (palColour pal idx 1)).write (a + 2)
    (palColour pal idx 2)).write (a + 3) Config.alpha

/-- A pixel of the image is written whole. -/
theorem writePixel_ok {s : State} {m : Memory} {x : Nat} (idx : Byte) (h : s.pix = .some m)
    (ha : pixAddr s x + 3 < pixSize s) :
    writePixel x idx s = .next { s with pix := .some (pixelWritten m (pixAddr s x) s.pal idx) } := by
  unfold writePixel
  rw [memWrite_ok _ h (by omega), andThen_next, memWrite_ok _ rfl (by simp only [pixSize] at *; omega), andThen_next,
    memWrite_ok _ rfl (by simp only [pixSize] at *; omega), andThen_next,
    memWrite_ok _ rfl (by simp only [pixSize] at *; omega)]
  rfl

/-- What a pixel write that goes on has done. -/
theorem writePixel_next {s t : State} {x : Nat} {idx : Byte} (h : writePixel x idx s = .next t) :
    ∃ m, s.pix = .some m ∧ pixAddr s x + 3 < pixSize s ∧
      t = { s with pix := .some (pixelWritten m (pixAddr s x) s.pal idx) } := by
  unfold writePixel at h
  obtain ⟨s1, h1, h⟩ := andThen_eq_next.1 h
  obtain ⟨m, hm, -, rfl⟩ := memWrite_next h1
  obtain ⟨s2, h2, h⟩ := andThen_eq_next.1 h
  obtain ⟨_, e, -, rfl⟩ := memWrite_next h2
  cases e
  obtain ⟨s3, h3, h⟩ := andThen_eq_next.1 h
  obtain ⟨_, e, -, rfl⟩ := memWrite_next h3
  cases e
  obtain ⟨_, e, ha, rfl⟩ := memWrite_next h
  cases e
  exact ⟨m, hm, ha, rfl⟩

/-- The bytes of PIX after a pixel is written. -/
theorem pixelWritten_read (m : Memory) (a : Nat) (pal : Vector Byte 768) (idx : Byte) (k : Nat) :
    (pixelWritten m a pal idx).read k =
      if k = a then some (palColour pal idx 0)
      else if k = a + 1 then some (palColour pal idx 1)
      else if k = a + 2 then some (palColour pal idx 2)
      else if k = a + 3 then some Config.alpha
      else m.read k := by
  simp only [pixelWritten, Memory.read_write]
  split_ifs <;> first | rfl | omega

theorem pixelWritten_wf {m : Memory} (a : Nat) (pal : Vector Byte 768) (idx : Byte) (h : m.wf) :
    (pixelWritten m a pal idx).wf :=
  Memory.write_wf _ _ (Memory.write_wf _ _ (Memory.write_wf _ _ (Memory.write_wf _ _ h)))

/-- The cells after a pixel is written: its four, and cells that were there. -/
theorem mem_pixelWritten {m : Memory} {a : Nat} {pal : Vector Byte 768} {idx : Byte} {c : Host.Cell}
    (h : c ∈ pixelWritten m a pal idx) : (a ≤ c.1 ∧ c.1 < a + 4) ∨ c ∈ m := by
  rcases Memory.mem_write h with rfl | h
  · exact .inl ⟨by simp, by simp⟩
  rcases Memory.mem_write h with rfl | h
  · exact .inl ⟨by simp, by simp⟩
  rcases Memory.mem_write h with rfl | h
  · exact .inl ⟨by simp, by simp⟩
  rcases Memory.mem_write h with rfl | h
  · exact .inl ⟨by simp, by simp⟩
  exact .inr h

/-! ### Sinks -/

/-- What one column of SINK.BP1 that goes on has done: nothing outside the image; else the bit is accumulated, and with
the last plane the pixel is written. -/
theorem sinkBp1Column_next {s t : State} {v : Byte} {i : Nat} (h : sinkBp1Column v i s = .next t) :
    (inImage s (bp1Column s.bcnt i) = false ∧ t = s) ∨
    (inImage s (bp1Column s.bcnt i) = true ∧ lastPlane s = false ∧
      t = setAcc (accOr s.acc (bp1Column s.bcnt i) s.pln.toNat (columnBit Config.bitOrder v i)) s) ∨
    (inImage s (bp1Column s.bcnt i) = true ∧ lastPlane s = true ∧ ∃ m, s.pix = .some m ∧
      pixAddr s (bp1Column s.bcnt i) + 3 < pixSize s ∧
      t = { s with
        acc := accOr s.acc (bp1Column s.bcnt i) s.pln.toNat (columnBit Config.bitOrder v i),
        pix := .some (pixelWritten m (pixAddr s (bp1Column s.bcnt i)) s.pal
          (accIndex (accOr s.acc (bp1Column s.bcnt i) s.pln.toNat (columnBit Config.bitOrder v i))
            (bp1Column s.bcnt i))) }) := by
  unfold sinkBp1Column at h
  split at h
  · next hi =>
    dsimp only at h
    split at h
    · next hl =>
      obtain ⟨m, hm, ha, rfl⟩ := writePixel_next h
      exact .inr (.inr ⟨hi, hl, m, hm, ha, rfl⟩)
    · next hl => exact .inr (.inl ⟨hi, by simpa using hl, by simpa using h.symm⟩)
  · next hi => exact .inl ⟨by simpa using hi, by simpa using h.symm⟩

/-- A sink that goes on has changed ACC and PIX at most (R180). -/
theorem sinkBp1Columns_frame {is : List Nat} {s t : State} {v : Byte} (h : sinkBp1Columns v is s = .next t) :
    t = { s with acc := t.acc, pix := t.pix } := by
  induction is generalizing s with
  | nil => simp only [sinkBp1Columns, Host.Outcome.next.injEq] at h; rw [← h]
  | cons i is ih =>
    obtain ⟨s1, h1, h2⟩ := andThen_eq_next.1 h
    have e := ih h2
    rcases sinkBp1Column_next h1 with ⟨-, rfl⟩ | ⟨-, -, rfl⟩ | ⟨-, -, m, -, -, rfl⟩ <;> exact e

/-- What SINK.IDX8 that goes on has done: padding is dropped, else the pixel is written (R181, R187). -/
theorem sinkIdx8_next {s t : State} {v : Byte} (h : sinkIdx8 v s = .next t) :
    (s.width ≤ s.bcnt.toNat ∧ t = s) ∨
    ((s.bcnt.toNat : Int) < s.width ∧ ∃ m, s.pix = .some m ∧ pixAddr s s.bcnt.toNat + 3 < pixSize s ∧
      t = { s with pix := .some (pixelWritten m (pixAddr s s.bcnt.toNat) s.pal v) }) := by
  unfold sinkIdx8 at h
  split at h
  · next hi =>
    obtain ⟨m, hm, ha, rfl⟩ := writePixel_next h
    exact .inr ⟨by simpa [inImage] using hi, m, hm, ha, rfl⟩
  · next hi => exact .inl ⟨by simpa [inImage] using hi, by simpa using h.symm⟩

/-- What SINK.RGB24 that goes on has done: padding is dropped, else the channel is written, and A with plane 2 (R182,
R187, R188). -/
theorem sinkRgb24_next {s t : State} {v : Byte} (h : sinkRgb24 v s = .next t) :
    (s.width ≤ s.bcnt.toNat ∧ t = s) ∨
    ((s.bcnt.toNat : Int) < s.width ∧ ∃ m, s.pix = .some m ∧ pixAddr s s.bcnt.toNat + s.pln.toNat < pixSize s ∧
      (s.pln ≠ 2#3 ∧ t = { s with pix := .some (m.write (pixAddr s s.bcnt.toNat + s.pln.toNat) v) } ∨
        s.pln = 2#3 ∧ pixAddr s s.bcnt.toNat + 3 < pixSize s ∧ t = { s with
          pix := .some ((m.write (pixAddr s s.bcnt.toNat + s.pln.toNat) v).write (pixAddr s s.bcnt.toNat + 3)
            Config.alpha) })) := by
  unfold sinkRgb24 at h
  split at h
  · next hi =>
    obtain ⟨s1, h1, h⟩ := andThen_eq_next.1 h
    obtain ⟨m, hm, ha, rfl⟩ := memWrite_next h1
    refine .inr ⟨by simpa [inImage] using hi, m, hm, ha, ?_⟩
    split at h
    · next hp =>
      obtain ⟨_, e, ha3, rfl⟩ := memWrite_next h
      cases e
      exact .inr ⟨hp, ha3, rfl⟩
    · next hp => exact .inl ⟨hp, by simpa using h.symm⟩
  · next hi => exact .inl ⟨by simpa [inImage] using hi, by simpa using h.symm⟩

/-- A sink that goes on has changed ACC and PIX at most (R180). -/
theorem sink_frame {s t : State} {v : Byte} (h : sink v s = .next t) : t = { s with acc := t.acc, pix := t.pix } := by
  unfold sink at h
  split at h
  · cases h
  · rcases sinkIdx8_next h with ⟨-, rfl⟩ | ⟨-, m, -, -, rfl⟩ <;> rfl
  · rcases sinkRgb24_next h with ⟨-, rfl⟩ | ⟨-, m, -, -, ⟨-, rfl⟩ | ⟨-, -, rfl⟩⟩ <;> rfl
  · exact sinkBp1Columns_frame h

/-- What the delivery of a byte that goes on has done (R154). -/
theorem deliver_next {s t : State} (h : deliver s = .next t) :
    ∃ u, sink s.runval (takeByte s) = .next u ∧ t = advance u := by
  obtain ⟨u, hu, h⟩ := andThen_eq_next.1 h
  exact ⟨u, hu, by simpa using h.symm⟩

end Sys2Proof.Machine
end

