-- ==== Sys2Proof/Laws/Step.lean ====
section
/-! SUPPORT. What each meaning, each step of the block and each move of the host can do, said once: if it answers a
next state, one of the cases listed holds. -/

namespace Sys2Proof.Machine

/-! ### Tokens -/

/-- What LIT that goes on has done (R151, R153). -/
theorem execLit_next {v : Byte} {s t : State} (h : exec (.lit v) s = .next t) :
    (s.cur < s.len ∧ t = setToken 1#6 v 1 s) ∨ (s.len ≤ s.cur ∧ t = raise .truncatedStream 0#16 s) := by
  simp only [exec, execLit] at h
  split at h
  · next hc => exact .inr ⟨hc, by simpa using h.symm⟩
  · next hc => exact .inl ⟨by omega, by simpa using h.symm⟩

/-- RUN never stops with the default ZERO_RUN (R152, R153). -/
theorem execRun_eq (n : BitVec 6) (v : Byte) (s : State) :
    exec (.run n v) s =
      .next (if s.len ≤ s.cur + 1 then raise .truncatedStream 0#16 s else setToken n v 2 s) := by
  simp only [exec, execRun, runToken, Config.zeroRun]
  split <;> rfl

/-- What RUN that goes on has done (R152, R153). -/
theorem execRun_next {n : BitVec 6} {v : Byte} {s t : State} (h : exec (.run n v) s = .next t) :
    (s.cur + 1 < s.len ∧ t = setToken n v 2 s) ∨ (s.len ≤ s.cur + 1 ∧ t = raise .truncatedStream 0#16 s) := by
  rw [execRun_eq, Host.Outcome.next.injEq] at h
  split at h
  · next hc => exact .inr ⟨hc, h.symm⟩
  · next hc => exact .inl ⟨by omega, h.symm⟩

/-- What fetching and running one token that goes on has done: the token of the bytes at CUR is active, or the stream
is truncated (R151 to R153). -/
theorem issueToken_next {s t : State} (h : issue .token s = .next t) :
    (∃ c, s.cur < s.len ∧ s.input.read s.cur = some c ∧ isRun c = false ∧ t = setToken 1#6 c 1 s) ∨
    (∃ c v, s.cur + 1 < s.len ∧ s.input.read s.cur = some c ∧ isRun c = true ∧ s.input.read (s.cur + 1) = some v ∧
      t = setToken (runCount c) v 2 s) ∨
    ((s.len ≤ s.cur ∨ s.cur + 1 = s.len ∧ ∃ c, s.input.read s.cur = some c ∧ isRun c = true) ∧
      t = raise .truncatedStream 0#16 s) := by
  unfold issue at h
  obtain ⟨bs, hbs, h⟩ := withRead_eq_next.1 h
  simp only [fetchBytes] at hbs
  split at hbs
  · next hc =>
    cases hbs
    exact .inr (.inr ⟨.inl hc, by simpa [decode, decodeToken, raisedKind, raisedInfo] using h.symm⟩)
  · next hc =>
    split at hbs
    · cases hbs
    · next c hr =>
      obtain ⟨hlt, hread⟩ := memRead1_ok hr
      split at hbs
      · next hrun =>
        cases hv : memRead1 s (s.cur + 1) with
        | error f => simp [hv, Except.map] at hbs
        | ok v =>
          obtain ⟨hlt', hread'⟩ := memRead1_ok hv
          simp only [hv, Except.map, Except.ok.injEq] at hbs
          subst hbs
          simp only [decode, decodeToken, if_pos hrun.1] at h
          rcases execRun_next h with ⟨_, rfl⟩ | ⟨hge, _⟩
          · exact .inr (.inl ⟨c, v, hlt', hread, hrun.1, hread', rfl⟩)
          · omega
      · next hrun =>
        cases hbs
        by_cases hr' : isRun c = true
        · simp only [decode, decodeToken, if_pos hr'] at h
          have : s.cur + 1 = s.len := by
            by_contra hne; exact hrun ⟨hr', by omega⟩
          exact .inr (.inr ⟨.inr ⟨this, c, hread, hr'⟩, by simpa [raisedKind, raisedInfo] using h.symm⟩)
        · simp only [decode, decodeToken, if_neg hr'] at h
          rcases execLit_next h with ⟨_, rfl⟩ | ⟨hge, _⟩
          · exact .inl ⟨c, hlt, hread, by simpa using hr', rfl⟩
          · omega

/-- What the fetch loop that goes on has done: a run is active, or the stream is truncated; CUR moved forward, and not
past LEN (R154, R26). -/
theorem fetchRun_next {k : Nat} {s t : State} (hs : s.status = .decode) (h : fetchRun k s = .next t) :
    ∃ n v c, s.cur ≤ c ∧ (s.cur ≤ s.len → c ≤ s.len) ∧
      ((n ≠ 0#6 ∧ t = { s with runlen := n, runval := v, cur := c }) ∨
        t = raise .truncatedStream 0#16 { s with runlen := n, runval := v, cur := c }) := by
  induction k generalizing s with
  | zero =>
    simp only [fetchRun] at h
    refine ⟨s.runlen, s.runval, s.cur, le_rfl, id, ?_⟩
    split at h
    · exact .inr (by simpa using h.symm)
    · next hn => exact .inl ⟨hn, by simpa using h.symm⟩
  | succ k ih =>
    simp only [fetchRun] at h
    split at h
    · obtain ⟨s1, h1, h⟩ := andThen_eq_next.1 h
      rcases issueToken_next h1 with ⟨c, hlt, -, -, rfl⟩ | ⟨c, v, hlt, -, -, -, rfl⟩ | ⟨-, rfl⟩
      · rw [if_pos (by simpa using hs)] at h
        obtain ⟨n', v', c', h1, h2, h3⟩ := ih (s := setToken 1#6 c 1 s) hs h
        simp only [setToken] at h1 h2 h3
        exact ⟨n', v', c', by omega, fun _ => h2 (by omega), h3⟩
      · rw [if_pos (by simpa using hs)] at h
        obtain ⟨n', v', c', h1, h2, h3⟩ := ih (s := setToken (runCount c) v 2 s) hs h
        simp only [setToken] at h1 h2 h3
        exact ⟨n', v', c', by omega, fun _ => h2 (by omega), h3⟩
      · rw [if_neg (by simp)] at h
        exact ⟨s.runlen, s.runval, s.cur, le_rfl, id, .inr (by simpa using h.symm)⟩
    · next hn => exact ⟨s.runlen, s.runval, s.cur, le_rfl, id, .inl ⟨hn, by simpa using h.symm⟩⟩

/-- With a run active the fetch loop does nothing (R154). -/
theorem fetchRun_active (k : Nat) {s : State} (h : s.runlen ≠ 0#6) : fetchRun k s = .next s := by
  cases k <;> simp [fetchRun, h]

/-- What the fetch loop has done when it raises: with no run active it skipped whole RUNs of count 0, two bytes each;
CUR is at the token whose fetch failed, and RUNVAL holds the value byte of the last RUN skipped (R154, R159, R220). -/
theorem fetchRun_raise {k : Nat} {s t : State} (hs : s.status = .decode) (h : fetchRun k s = .next t)
    (ht : t.status = .error) (hk : s.len - s.cur ≤ k) :
    s.runlen = 0#6 ∧ ∃ j v,
      (∀ i < j, s.input.read (s.cur + 2 * i) = some 0xC0#8) ∧
      (j = 0 ∧ v = s.runval ∨ 0 < j ∧ s.input.read (s.cur + 2 * j - 1) = some v) ∧
      (s.len ≤ s.cur + 2 * j ∨ s.cur + 2 * j + 1 = s.len ∧ ∃ c, s.input.read (s.cur + 2 * j) = some c ∧ isRun c = true) ∧
      t = raise .truncatedStream 0#16 { s with runval := v, cur := s.cur + 2 * j } := by
  induction k generalizing s with
  | zero =>
    simp only [fetchRun] at h
    split at h
    · next hr =>
      cases h
      exact ⟨hr, 0, s.runval, nofun, .inl ⟨rfl, rfl⟩, .inl (by omega), rfl⟩
    · cases h; rw [hs] at ht; cases ht
  | succ k ih =>
    simp only [fetchRun] at h
    split at h
    · next hr =>
      refine ⟨hr, ?_⟩
      obtain ⟨s1, h1, h⟩ := andThen_eq_next.1 h
      rcases issueToken_next h1 with ⟨c, hlt, -, -, rfl⟩ | ⟨c, v, hlt, hc, hrun, hv, rfl⟩ | ⟨hend, rfl⟩
      · rw [if_pos (by simpa using hs), fetchRun_active _ (by simp [setToken])] at h
        cases h; rw [show (setToken 1#6 c 1 s).status = s.status from rfl, hs] at ht; cases ht
      · rw [if_pos (by simpa using hs)] at h
        obtain ⟨h0, j, v', hz, hlast, hend, rfl⟩ := ih (s := setToken (runCount c) v 2 s) hs h (by simp only [setToken]; omega)
        have hC0 : c = 0xC0#8 := by
          have h0 : runCount c = 0#6 := h0
          rw [← control_runCount c hrun, h0]; rfl
        have e : ∀ i, (setToken (runCount c) v 2 s).cur + 2 * i = s.cur + 2 * (i + 1) := fun i => by
          simp only [setToken]; omega
        simp only [e] at hz hend ⊢
        refine ⟨j + 1, v', fun i hi => ?_, .inr ⟨Nat.succ_pos j, ?_⟩, hend, ?_⟩
        · cases i with
          | zero => rw [Nat.mul_zero, Nat.add_zero, hc, hC0]
          | succ i => exact hz i (by omega)
        · rcases hlast with ⟨rfl, rfl⟩ | ⟨hj, h⟩
          · exact hv
          · rw [← e j]; exact h
        · have h0 : runCount c = 0#6 := h0
          simp only [setToken, h0, ← hr]
      · rw [if_neg (by simp)] at h
        cases h
        exact ⟨0, s.runval, nofun, .inl ⟨rfl, rfl⟩, by simpa using hend, rfl⟩
    · cases h; rw [hs] at ht; cases ht
/-- What a byte-step that goes on has done: with a run active a byte was delivered and the counters advanced, or the
stream was truncated (R154). -/
theorem byteStep_next {s t : State} (hs : s.status = .decode) (h : byteStep s = .next t) :
    ∃ n v c, s.cur ≤ c ∧ (s.cur ≤ s.len → c ≤ s.len) ∧
      ((n ≠ 0#6 ∧ deliver { s with runlen := n, runval := v, cur := c } = .next t) ∨
        t = raise .truncatedStream 0#16 { s with runlen := n, runval := v, cur := c }) := by
  obtain ⟨s1, h1, h⟩ := andThen_eq_next.1 h
  obtain ⟨n, v, c, hc, hl, ⟨hn, rfl⟩ | rfl⟩ := fetchRun_next hs h1
  · rw [if_pos hs] at h
    exact ⟨n, v, c, hc, hl, .inl ⟨hn, h⟩⟩
  · rw [if_neg (by simp)] at h
    exact ⟨n, v, c, hc, hl, .inr (by simpa using h.symm)⟩

/-! ### The configuration -/

/-- Reading the header of a loaded file gives the words of the address map (R123). -/
theorem readHeader_of_loaded {s : State} (hm : s.input.wf) (hl : Loaded s) (hn : 128 ≤ s.len) :
    readHeader s = .ok (headerAt s) := by
  have r : ∀ a, a < 128 → memRead1 s a = .ok (inAt s a) := fun a ha => by
    obtain ⟨b, hb⟩ := Option.isSome_iff_exists.1 (hl a (by omega))
    rw [memRead1_of_read (by omega) hb]; simp [inAt, hb]
  have w : ∀ a, a + 1 < 128 → memRead2 s a = .ok (wordAt s a) := fun a ha => by
    simp only [memRead2, r a (by omega), r (a + 1) ha]; rfl
  have p : readBytes s 16 48 = .ok (Vector.ofFn fun j : Fin 48 => inAt s (16 + j.val)) :=
    readBytes_of_loaded hm 16 48 (by omega) fun j hj => hl _ (by omega)
  unfold readHeader
  rw [r 1 (by omega), r 2 (by omega), r 3 (by omega), r 65 (by omega), w 4 (by omega), w 6 (by omega), w 8 (by omega),
    w 10 (by omega), w 12 (by omega), w 14 (by omega), w 66 (by omega), p]
  rfl

/-- What MAGIC that goes on has done: one of its two checks raised, or the header is loaded and PIX exists (R122 to
R125). -/
theorem execMagic_next {s t : State} (h : exec .magic s = .next t) :
    (s.len < Config.hdrSize ∧ t = raise .truncatedStream 0#16 s) ∨
    (Config.hdrSize ≤ s.len ∧ ∃ hd, readHeader s = .ok hd ∧
      ((dimension hd.xmin hd.xmax ≤ 0 ∨ dimension hd.ymin hd.ymax ≤ 0) ∧
          t = raise .invalidDimensions 0#16
            (setDims (dimension hd.xmin hd.xmax) (dimension hd.ymin hd.ymax) (setHeader hd s)) ∨
        0 < dimension hd.xmin hd.xmax ∧ 0 < dimension hd.ymin hd.ymax ∧
          t = openPix (setDims (dimension hd.xmin hd.xmax) (dimension hd.ymin hd.ymax) (setHeader hd s)))) := by
  simp only [exec, execMagic] at h
  split at h
  · next hl => exact .inl ⟨hl, by simpa using h.symm⟩
  · next hl =>
    unfold loadHeader at h
    obtain ⟨hd, hh, h⟩ := withRead_eq_next.1 h
    refine .inr ⟨by omega, hd, hh, ?_⟩
    simp only [openImage, setDims_width, setDims_height, Config.addressWidth, Config.fitsSpace, if_true] at h
    split at h
    · next hd' => exact .inl ⟨hd', by simpa using h.symm⟩
    · next hd' => exact .inr ⟨by omega, by omega, by simpa using h.symm⟩

/-- What PALMARK that goes on has done (R128). -/
theorem execPalmark_next {s t : State} (h : exec .palmark s = .next t) :
    (s.len < Config.palTail ∧ t = raise .truncatedStream 0#16 s) ∨
    (Config.palTail ≤ s.len ∧ ∃ p, readBytes s (s.len - Config.palBytes) Config.palBytes = .ok p ∧
      t = decodeInit (setPal p s)) := by
  simp only [exec, execPalmark] at h
  split at h
  · next hl => exact .inl ⟨hl, by simpa using h.symm⟩
  · next hl =>
    obtain ⟨p, hp, h⟩ := withRead_eq_next.1 h
    exact .inr ⟨by omega, p, hp, by simpa using h.symm⟩

/-- What the HDR step that goes on has done (R121). -/
theorem issueMagic_next {s t : State} (h : issue .magic s = .next t) :
    t = raise .invalidMagic 0#16 s ∨
    (0 < s.len ∧ s.input.read 0 = some Config.magic ∧ exec .magic s = .next t) := by
  unfold issue at h
  obtain ⟨bs, hbs, h⟩ := withRead_eq_next.1 h
  simp only [fetchBytes] at hbs
  split at hbs
  · cases hbs; exact .inl (by simpa [decode, decodeMagic, raisedKind, raisedInfo] using h.symm)
  · next hl =>
    cases hv : memRead1 s 0 with
    | error f => simp [hv, Except.map] at hbs
    | ok b =>
      simp only [hv, Except.map, Except.ok.injEq] at hbs
      subst hbs
      simp only [decode, decodeMagic] at h
      split at h
      · next i rest he =>
        split at he
        · next hb =>
          cases he
          exact .inr ⟨by omega, by rw [← hb]; exact (memRead1_ok hv).2, h⟩
        · cases he
      · next e he =>
        split at he
        · cases he
        · cases he; exact .inl (by simpa [raisedKind, raisedInfo] using h.symm)

/-- What the DISPATCH step has done (R126). -/
theorem issueKey_next {s t : State} (h : issue .key s = .next t) :
    (∃ m, SupportedPair s.hdr.bpp s.hdr.nplanes m ∧ t = selectMode m s) ∨
    ((∀ m, ¬ SupportedPair s.hdr.bpp s.hdr.nplanes m) ∧
      t = raise .unsupportedFormat (formatInfo s.hdr.bpp s.hdr.nplanes) s) := by
  unfold issue at h
  simp only [fetchBytes, withRead_ok, decode, decodeKey, planeSet_iff] at h
  split at h
  · next i rest he =>
    split at he
    · next h1 => cases he; exact .inl ⟨.idx8, .inl ⟨h1.1, h1.2, rfl⟩, by simpa [exec, execModeIdx8] using h.symm⟩
    · split at he
      · next h2 => cases he; exact .inl ⟨.rgb24, .inr (.inl ⟨h2.1, h2.2, rfl⟩), by simpa [exec, execModeRgb24] using h.symm⟩
      · split at he
        · next h3 => cases he; exact .inl ⟨.bp1, .inr (.inr ⟨h3.1, h3.2.1, h3.2.2, rfl⟩), by simpa [exec, execModeBp1] using h.symm⟩
        · cases he
  · next e he =>
    split at he
    · cases he
    · split at he
      · cases he
      · split at he
        · cases he
        · cases he
          refine .inr ⟨fun m hm => ?_, by simpa [raisedKind, raisedInfo] using h.symm⟩
          rcases hm with ⟨a, b, -⟩ | ⟨a, b, -⟩ | ⟨a, b, c, -⟩ <;> simp_all

/-- What the palette check that goes on has done (R128). -/
theorem issueMarker_next {s t : State} (h : issue .marker s = .next t) :
    t = raise .truncatedStream 0#16 s ∨ t = raise .missingPalette 0#16 s ∨
    (Config.palTail ≤ s.len ∧ s.input.read (s.len - Config.palTail) = some Config.palMarker ∧
      exec .palmark s = .next t) := by
  unfold issue at h
  obtain ⟨bs, hbs, h⟩ := withRead_eq_next.1 h
  simp only [fetchBytes] at hbs
  split at hbs
  · cases hbs; exact .inl (by simpa [decode, decodeMarker, raisedKind, raisedInfo] using h.symm)
  · next hl =>
    cases hv : memRead1 s (s.len - Config.palTail) with
    | error f => simp [hv, Except.map] at hbs
    | ok b =>
      simp only [hv, Except.map, Except.ok.injEq] at hbs
      subst hbs
      simp only [decode, decodeMarker] at h
      split at h
      · next i rest he =>
        split at he
        · next hb =>
          cases he
          exact .inr (.inr ⟨by omega, by rw [← hb]; exact (memRead1_ok hv).2, h⟩)
        · cases he
      · next e he =>
        split at he
        · cases he
        · cases he; exact .inr (.inl (by simpa [raisedKind, raisedInfo] using h.symm))

/-! ### The step -/

/-- With no move of the host placed, the step is the block's (R253). -/
theorem step_of_alone {s : State} (h : s.host = []) : step s = blockStep s := by
  simp [step, systemStep, h]

/-- With a move of the host next, the step is that move. -/
theorem step_of_move {s : State} {m : HostMove} {rest : List HostMove} (h : s.host = m :: rest) :
    step s = hostMove m (setHost rest s) := by
  simp [step, systemStep, h]

/-- What the PALLOAD step that goes on has done (R127 to R130). -/
theorem palloadStep_next {s t : State} (h : palloadStep s = .next t) :
    (s.mode = .idx8 ∧ issue .marker s = .next t) ∨ (s.mode = .rgb24 ∧ t = decodeInit s) ∨
    (s.mode = .bp1 ∧ t = decodeInit (setPal (bp1Palette s.hdr.hpal s.pal) s)) := by
  unfold palloadStep at h
  split at h
  · cases h
  · next hm => exact .inl ⟨hm, h⟩
  · next hm => exact .inr (.inl ⟨hm, by simpa [palloadRgb24] using h.symm⟩)
  · next hm => exact .inr (.inr ⟨hm, by simpa [palloadBp1] using h.symm⟩)

/-- What a move of the host other than `block` that goes on has done (R120, R250, R264). -/
theorem hostMove_next {m : HostMove} {s t : State} (h : hostMove m s = .next t) :
    (m = .block ∧ blockStep s = .next t) ∨ (m = .reset ∧ t = hostReset s) ∨
    (∃ a b, m = .writeIn a b ∧ busy s = false ∧ t = loadByte a b s) ∨
    (∃ n, m = .writeLen n ∧ busy s = false ∧ t = setLen n s) ∨
    (m = .start ∧ busy s = true ∧ t = s) ∨ (m = .start ∧ busy s = false ∧ t = start s) := by
  cases m with
  | block => exact .inl ⟨rfl, h⟩
  | reset => exact .inr (.inl ⟨rfl, by simpa [hostMove] using h.symm⟩)
  | writeIn a b =>
    simp only [hostMove] at h
    split at h
    · cases h
    · next hb => exact .inr (.inr (.inl ⟨a, b, rfl, by simpa using hb, by simpa using h.symm⟩))
  | writeLen n =>
    simp only [hostMove] at h
    split at h
    · cases h
    · next hb => exact .inr (.inr (.inr (.inl ⟨n, rfl, by simpa using hb, by simpa using h.symm⟩)))
  | start =>
    simp only [hostMove, Config.addressWidth, Config.isAddress, if_true] at h
    split at h
    · next hb => exact .inr (.inr (.inr (.inr (.inl ⟨rfl, hb, by simpa using h.symm⟩))))
    · next hb => exact .inr (.inr (.inr (.inr (.inr ⟨rfl, by simpa using hb, by simpa using h.symm⟩))))

end Sys2Proof.Machine
end

