-- ==== Sys2Proof/Laws/Canonical.lean ====
section
/-! SUPPORT. Every memory operation keeps the canonical form: MemWrite, the host's writes, and the placing of an
instruction; memory after reset has it. (`Memory.write_wf`, of the one store they share, is in Laws/Memory.lean.) -/

namespace Sys2Proof.Machine

/-- MemWrite keeps both memories in canonical form. -/
theorem memWrite_keeps_wf {a : Nat} {b : Byte} {s t : State} (h : memWrite a b s = .next t)
    (hp : ∀ m ∈ s.pix, Memory.wf m) (hi : s.input.wf) : (∀ m ∈ t.pix, Memory.wf m) ∧ t.input.wf := by
  unfold memWrite at h
  split at h
  · cases h
  · rename_i m hm
    split at h
    · cases h
      exact ⟨by simpa using Memory.write_wf a b (hp m (by simp [hm])), hi⟩
    · cases h

/-- A host write to IN keeps the canonical form. -/
theorem loadByte_keeps_wf {a : Nat} {b : Byte} {s : State} (h : s.input.wf) : (loadByte a b s).input.wf :=
  Memory.write_wf a b h

/-- Storing bytes at ascending addresses keeps the canonical form. -/
theorem storeBytes_wf {m : Memory} (a : Nat) (bs : List Byte) (h : m.wf) : (storeBytes m a bs).wf := by
  induction bs generalizing m a with
  | nil => exact h
  | cons b bs ih => exact ih (a + 1) (Memory.write_wf a b h)

theorem mem_zeroCells {a n : Nat} {c : Host.Cell} (h : c ∈ zeroCells a n) : a ≤ c.1 ∧ c.1 < a + n := by
  induction n generalizing a with
  | zero => simp [zeroCells] at h
  | succ n ih =>
    simp only [zeroCells, List.mem_cons] at h
    rcases h with rfl | h
    · simp
    · have := ih h; omega

theorem zeroCells_wf (a n : Nat) : Memory.wf (zeroCells a n) := by
  induction n generalizing a with
  | zero => simp [zeroCells]
  | succ n ih =>
    refine List.pairwise_cons.2 ⟨fun c hc => ?_, ih (a + 1)⟩
    have := mem_zeroCells hc; omega

/-- The cells after filling: cells that were there, and cells of the range. -/
theorem mem_fillAbsent {m : Memory} {a n : Nat} {c : Host.Cell} (h : c ∈ fillAbsent m a n) :
    c ∈ m ∨ a ≤ c.1 ∧ c.1 < a + n := by
  induction m generalizing a n with
  | nil => exact .inr (mem_zeroCells h)
  | cons d rest ih =>
    obtain ⟨k, b⟩ := d
    simp only [fillAbsent] at h
    split at h
    · rcases List.mem_cons.1 h with rfl | h
      · simp
      · exact (ih h).imp_left (List.mem_cons_of_mem _)
    · split at h
      · rcases List.mem_append.1 h with h | h
        · exact .inr (mem_zeroCells h)
        · exact .inl h
      · rcases List.mem_append.1 h with h | h
        · have := mem_zeroCells h; right; omega
        · rcases List.mem_cons.1 h with rfl | h
          · simp
          · rcases ih h with h | h
            · exact .inl (List.mem_cons_of_mem _ h)
            · right; omega

/-- Filling a range keeps the canonical form. -/
theorem fillAbsent_wf {m : Memory} (a n : Nat) (h : m.wf) : (fillAbsent m a n).wf := by
  induction m generalizing a n with
  | nil => exact zeroCells_wf a n
  | cons d rest ih =>
    obtain ⟨k, b⟩ := d
    obtain ⟨hk, hr⟩ := List.pairwise_cons.1 h
    simp only [fillAbsent]
    split
    · refine List.pairwise_cons.2 ⟨fun c hc => ?_, ih a n hr⟩
      rcases mem_fillAbsent hc with hc | hc
      · exact hk c hc
      · show k < c.1; omega
    · split
      · refine List.pairwise_append.2 ⟨zeroCells_wf a n, h, fun p hp q hq => ?_⟩
        have := mem_zeroCells hp
        rcases List.mem_cons.1 hq with rfl | hq
        · show p.1 < k; omega
        · have := hk q hq; simp only at this; omega
      · refine List.pairwise_append.2 ⟨zeroCells_wf _ _, List.pairwise_cons.2 ⟨fun c hc => ?_, ih _ _ hr⟩, fun p hp q hq => ?_⟩
        · rcases mem_fillAbsent hc with hc | hc
          · exact hk c hc
          · show k < c.1; omega
        · have := mem_zeroCells hp
          rcases List.mem_cons.1 hq with rfl | hq
          · show p.1 < k; omega
          · rcases mem_fillAbsent hq with hq | hq
            · have := hk q hq; simp only at this; omega
            · omega

/-- Placing an instruction keeps IN in canonical form. -/
theorem placePattern_wf (slot : Slot) (bs : List Byte) {s : State} (h : s.input.wf) :
    (placePattern slot bs s).input.wf := by
  have ho : (openDecode s).input = s.input := by unfold openDecode; split <;> rfl
  cases slot with
  | token => exact storeBytes_wf _ _ (by rw [ho]; exact h)
  | magic => exact fillAbsent_wf _ _ (storeBytes_wf _ _ h)
  | key => exact h
  | marker => exact fillAbsent_wf _ _ (storeBytes_wf _ _ h)

/-- Memory after reset is in canonical form. -/
theorem reset_memory_wf : State.reset.input.wf ∧ ∀ m ∈ State.reset.pix, Memory.wf m :=
  ⟨List.Pairwise.nil, nofun⟩

end Sys2Proof.Machine
end

