-- ==== Sys2Proof/Laws/PerInstr.lean ====
section
/-! SUPPORT. One fact about every instruction as syntax: its bytes have the length 30_encoding.md R90, R98 and R99 give
it, and the first byte of a token tells whether a second one follows (R90). -/

namespace Sys2Proof.Laws.SizeAndLength

/-- The length of the encoding, and what the first byte of a token says of it. -/
def Statement (i : Instr) : Prop :=
  (encode i).length = i.size ∧
    (i.slot = .token → i.wf = true → ∀ c ∈ (encode i).head?, isRun c = (i.size == 2))

theorem lit (v : Byte) : Statement (.lit v) := by
  refine ⟨rfl, fun _ h c hc => ?_⟩
  have hv : v.toNat ≤ 0xBF := by simpa [Instr.wf] using h
  obtain rfl : v = c := by simpa [encode] using hc
  have : ¬ isRun v = true := by rw [isRun_iff]; omega
  simpa [Instr.size] using this

theorem run (n : BitVec 6) (v : Byte) : Statement (.run n v) := by
  refine ⟨rfl, fun _ _ c hc => ?_⟩
  obtain rfl : 0b11#2 ++ n = c := by simpa [encode] using hc
  simpa [Instr.size] using isRun_control n

theorem magic : Statement .magic := ⟨rfl, nofun⟩

theorem palmark : Statement .palmark := ⟨rfl, nofun⟩

theorem modeIdx8 : Statement .modeIdx8 := ⟨rfl, nofun⟩

theorem modeRgb24 : Statement .modeRgb24 := ⟨rfl, nofun⟩

theorem modeBp1 (planes : Byte) : Statement (.modeBp1 planes) := ⟨rfl, nofun⟩

end Sys2Proof.Laws.SizeAndLength
end

