-- ==== Sys2Proof/Tests/Slice0.lean ====
section
/-! SUPPORT. Tests of the model against spec 30_encoding.md and the vectors of 95_test_vectors.md (their ids stand in the
names), and the witnesses: for each statement with hypotheses, a concrete state and operands that meet them. -/

namespace Sys2Proof.Tests

open Sys2Proof.Machine

/-! ### Small states -/

/-- What a next state is read for; nothing when the machine stopped. -/
def after {α : Type} (o : Result) (f : State → α) : Option α :=
  match o with
  | .next s => some (f s)
  | .fault _ => none
  | .refused _ => none

theorem after_some {α : Type} {o : Result} {f : State → α} {x : α} (h : after o f = some x) :
    ∃ t, o = .next t ∧ f t = x := by
  cases o with
  | next t => exact ⟨t, rfl, Option.some.inj h⟩
  | fault _ => cases h
  | refused _ => cases h

/-- The cells of a file, from an address on. -/
def cells (a : Nat) : List Byte → Memory
  | [] => []
  | b :: bs => (a, b) :: cells (a + 1) bs

/-- The state after reset with a file in IN and its length in LEN. -/
def fileState (bs : List Byte) : State := { State.reset with len := bs.length, input := cells 0 bs }

theorem fileState_len (bs : List Byte) : (fileState bs).len = bs.length := rfl

/-- Decoding a 4×3 image with one plane and BPL = 4, at CUR = 0 of a stream. -/
def streamState (mode : Mode) (bs : List Byte) : State :=
  { fileState bs with
    status := .decode, mode := mode, width := 4, height := 3, pix := some []
    hdr := { Header.zero with nplanes := 1#8, bpl := 4#16 } }

/-- The 128 header bytes of a file with XMIN = YMIN = 0 and small dimensions. -/
def headerBytes (bpp nplanes xmax ymax bpl : Byte) : List Byte :=
  [10#8, 5#8, 1#8, bpp, 0#8, 0#8, 0#8, 0#8, xmax, 0#8, ymax, 0#8] ++ List.replicate 53 0#8 ++
    [nplanes, bpl, 0#8] ++ List.replicate 60 0#8

theorem headerBytes_length (bpp nplanes xmax ymax bpl : Byte) : (headerBytes bpp nplanes xmax ymax bpl).length = 128 := by
  simp [headerBytes]

/-- A file of 128 header bytes and a stream, waiting in HDR. -/
def hdrState (h stream : List Byte) : State := { fileState (h ++ stream) with status := .hdr }

/-- The header record of `headerBytes`. -/
def headerOf (bpp nplanes xmax ymax bpl : Byte) : Header :=
  { Header.zero with
    version := 5#8, encoding := 1#8, bpp := bpp, xmax := xmax.setWidth 16, ymax := ymax.setWidth 16,
    nplanes := nplanes, bpl := bpl.setWidth 16 }

/-- A file of that header and a stream, at the entry of DECODE. -/
def entryState (mode : Mode) (bpp nplanes xmax ymax bpl : Byte) (stream : List Byte) : State :=
  { fileState (headerBytes bpp nplanes xmax ymax bpl ++ stream) with
    status := .decode, mode := mode, hdr := headerOf bpp nplanes xmax ymax bpl,
    width := xmax.toNat + 1, height := ymax.toNat + 1, pix := some [], cur := 128
    acc := List.replicate (xmax.toNat + 1) 0#4 }

theorem read_cells (a : Nat) (bs : List Byte) (j : Nat) : (cells a bs).read (a + j) = bs[j]? := by
  induction bs generalizing a j with
  | nil => rfl
  | cons b bs ih =>
    cases j with
    | zero => simp [cells, Memory.read]
    | succ j => simpa [cells, Memory.read, Nat.add_assoc, Nat.add_comm 1] using ih (a + 1) j

theorem mem_cells {a : Nat} {bs : List Byte} {c : Host.Cell} (h : c ∈ cells a bs) : a ≤ c.1 := by
  induction bs generalizing a with
  | nil => cases h
  | cons b bs ih =>
    rcases List.mem_cons.1 h with rfl | h
    · exact Nat.le_refl _
    · exact Nat.le_of_succ_le (ih h)

theorem cells_wf (a : Nat) (bs : List Byte) : Memory.wf (cells a bs) := by
  induction bs generalizing a with
  | nil => exact List.Pairwise.nil
  | cons b bs ih => exact List.pairwise_cons.2 ⟨fun c hc => mem_cells hc, ih (a + 1)⟩

/-- A state that has a whole file in IN meets the launch premise. -/
theorem loaded_cells {s : State} {bs : List Byte} (hi : s.input = cells 0 bs) (hl : s.len = bs.length) : Loaded s := by
  intro a ha
  have := read_cells 0 bs a
  rw [Nat.zero_add] at this
  rw [inByte, hi, this, List.getElem?_eq_getElem (by omega)]; rfl

/-- The entry of DECODE of a small file meets `DecodeEntry`, if the few numbers fit. -/
theorem entry_of {mode : Mode} {bpp nplanes xmax ymax bpl : Byte} {stream : List Byte}
    (hm : SupportedPair bpp nplanes mode) (hb : 1 ≤ bpl.toNat) (hn : 1 ≤ nplanes.toNat)
    (hp : mode = .idx8 → 769 ≤ 128 + stream.length ∧
      inByte (entryState mode bpp nplanes xmax ymax bpl stream) (128 + stream.length - 769) = some 12#8) :
    DecodeEntry (entryState mode bpp nplanes xmax ymax bpl stream) := by
  have hlen : (entryState mode bpp nplanes xmax ymax bpl stream).len = 128 + stream.length := by
    simp [entryState, fileState, headerBytes]; omega
  have hx := xmax.isLt
  have hy := ymax.isLt
  refine
    { inv :=
        { inputWf := cells_wf _ _
          pixWf := by simp [entryState]
          pixInside := by simp [entryState]
          errIff := by simp [entryState, fileState, State.reset]
          infoOnly := fun _ => rfl
          pixIff := rfl
          modeNone := by simp [entryState]
          dims := fun _ => by simp only [entryState]; omega
          dimsOf := fun _ => by simp [entryState, headerOf, Header.zero, dimension]; omega
          headerLen := fun _ => by rw [hlen]; simp [Config.hdrSize]
          fresh := by simp [entryState]
          pair := fun _ => hm
          counters := fun _ => ?_
          marker := fun _ h => ?_
          accs := fun _ _ => ⟨?_, fun x hx q hq hxq => ?_⟩
          ended := by simp [entryState] }
      loaded := loaded_cells rfl rfl
      phase := rfl
      atStart := ⟨rfl, rfl, rfl, rfl, rfl⟩
      fresh := rfl
      alone := rfl }
  · refine ⟨?_, ?_, ?_, ?_, by simp [entryState, Config.hdrSize], by rw [hlen]; simp [entryState]⟩
    · simpa [entryState, headerOf, Nat.mod_eq_of_lt (Nat.lt_trans bpl.isLt (by decide : 2 ^ 8 < 65536))] using hb
    · simp [entryState, fileState, State.reset]
    · have : 0 < nplanes.toNat := hn
      simpa [entryState, fileState, State.reset, headerOf] using this
    · have : 0 < bpl.toNat := hb
      simpa [entryState, fileState, State.reset, headerOf,
        Nat.mod_eq_of_lt (Nat.lt_trans bpl.isLt (by decide : 2 ^ 8 < 65536))] using this
  · obtain ⟨h1, h2⟩ := hp (by simpa [entryState] using h)
    rw [hlen]; exact ⟨h1, h2⟩
  · simp [entryState]
  · simp only [accAt, entryState, List.getD_eq_getElem?_getD, List.getElem?_replicate]
    split <;> simp

/-- A file in HDR meets the invariant, and so does one at rest. -/
theorem hdr_inv (h stream : List Byte) : Inv (hdrState h stream) where
  inputWf := cells_wf _ _
  pixWf := by simp [hdrState, fileState, State.reset]
  pixInside := by simp [hdrState, fileState, State.reset]
  errIff := by simp [hdrState, fileState, State.reset]
  infoOnly := fun _ => rfl
  pixIff := rfl
  modeNone := fun _ => rfl
  dims := by simp [hdrState, Phase.accepted]
  dimsOf := by simp [hdrState, Phase.accepted]
  headerLen := by simp [hdrState]
  fresh := by simp [hdrState]
  pair := by simp [hdrState]
  counters := by simp [hdrState]
  marker := by simp [hdrState]
  accs := by simp [hdrState]
  ended := by simp [hdrState]

/-- A file at rest, before START. -/
def idleState (bs : List Byte) (moves : List HostMove) : State := { fileState bs with host := moves }

theorem idle_inv (bs : List Byte) (moves : List HostMove) : Inv (idleState bs moves) where
  inputWf := cells_wf _ _
  pixWf := by simp [idleState, fileState, State.reset]
  pixInside := by simp [idleState, fileState, State.reset]
  errIff := by simp [idleState, fileState, State.reset]
  infoOnly := fun _ => rfl
  pixIff := rfl
  modeNone := fun _ => rfl
  dims := by simp [idleState, fileState, State.reset, Phase.accepted]
  dimsOf := by simp [idleState, fileState, State.reset, Phase.accepted]
  headerLen := by simp [idleState, fileState, State.reset]
  fresh := by simp [idleState, fileState, State.reset]
  pair := by simp [idleState, fileState, State.reset]
  counters := by simp [idleState, fileState, State.reset]
  marker := by simp [idleState, fileState, State.reset]
  accs := by simp [idleState, fileState, State.reset]
  ended := by simp [idleState, fileState, State.reset]

/-! ### Well-formed terms (R91, R99, R101) -/

theorem test_wf_lit : (Instr.lit 0xBF#8).wf = true ∧ (Instr.lit 0xC0#8).wf = false ∧ (Instr.lit 0xFF#8).wf = false := by
  decide

theorem test_wf_modeBp1 : (Instr.modeBp1 1#8).wf = true ∧ (Instr.modeBp1 4#8).wf = true ∧
    (Instr.modeBp1 0#8).wf = false ∧ (Instr.modeBp1 5#8).wf = false := by decide

theorem test_wf_others : (Instr.run 0#6 0xFF#8).wf = true ∧ Instr.magic.wf = true ∧ Instr.palmark.wf = true ∧
    Instr.modeIdx8.wf = true ∧ Instr.modeRgb24.wf = true := by decide

/-! ### Words written out bit by bit (R91, R92, R98, R99) -/

theorem test_decode_lit : decode .token [0b01000000#8, 9#8] = .ok (.lit 0x40#8) [9#8] ∧
    decode .token [0b10111111#8] = .ok (.lit 0xBF#8) [] := by decide

theorem test_decode_run : decode .token [0b11000110#8, 0b00101010#8, 9#8] = .ok (.run 6#6 0x2A#8) [9#8] ∧
    decode .token [0b11111111#8, 0b11000000#8] = .ok (.run 63#6 0xC0#8) [] := by decide

theorem test_decode_magic : decode .magic [0b00001010#8] = .ok .magic [] ∧
    decode .magic [0b00001011#8] = .bad .badMagic ∧ decode .magic [] = .bad .badMagic := by decide

theorem test_decode_palmark : decode .marker [0b00001100#8] = .ok .palmark [] ∧
    decode .marker [0b00000000#8] = .bad .badMarker := by decide

theorem test_decode_modeIdx8 : decode .key [0b00001000#8, 0b00000001#8] = .ok .modeIdx8 [] ∧
    decode .key [0b00001000#8, 0b00000010#8] = .bad (.badKey 8#8 2#8) := by decide

theorem test_decode_modeRgb24 : decode .key [0b00001000#8, 0b00000011#8] = .ok .modeRgb24 [] ∧
    decode .key [0b00001000#8, 0b00000100#8] = .bad (.badKey 8#8 4#8) := by decide

theorem test_decode_modeBp1 : decode .key [0b00000001#8, 0b00000010#8] = .ok (.modeBp1 2#8) [] ∧
    decode .key [0b00000001#8, 0b00000101#8] = .bad (.badKey 1#8 5#8) := by decide

theorem test_decode_cut : decode .token [0b11000001#8] = .bad .noValueByte ∧ decode .token [] = .bad .noTokenByte := by
  decide

theorem test_table_words : decodeTableWord 8 0x40 = some (.lit 0x40#8) ∧ decodeTableWord 8 0x80 = some (.lit 0x80#8) ∧
    decodeTableWord 16 0xC32A = some (.run 3#6 0x2A#8) ∧ decodeTableWord 8 0x0A = some .magic ∧
    decodeTableWord 8 0x0C = some .palmark ∧ decodeTableWord 16 0x0801 = some .modeIdx8 ∧
    decodeTableWord 16 0x0803 = some .modeRgb24 ∧ decodeTableWord 16 0x0104 = some (.modeBp1 4#8) ∧
    decodeTableWord 16 0x0105 = none := by decide

/-! ### One step of each instruction -/

theorem test_lit_T21 : after (exec (.lit 0xBF#8) (streamState .idx8 [0xBF#8]))
    (fun t => (t.runlen, t.runval, t.cur)) = some (1#6, 0xBF#8, 1) := by decide

theorem test_lit_T11 : after (step (streamState .idx8 [0x2A#8]))
    (fun t => (t.runlen, t.cur, t.bcnt, pixByte t 3)) = some (0#6, 1, 1#16, some 0xFF#8) := by decide

theorem test_run_T23 : after (step (streamState .idx8 [0xFF#8, 0x00#8]))
    (fun t => (t.runlen, t.runval, t.cur)) = some (62#6, 0x00#8, 2) := by decide

theorem test_run_T15 : after (step (streamState .idx8 [0xC0#8, 0xC0#8, 0xC0#8, 0xC0#8, 0x07#8]))
    (fun t => (t.runlen, t.runval, t.cur)) = some (0#6, 0x07#8, 5) := by decide

theorem test_magic_E4 : after (step { hdrState [0x0A#8] [] with len := 127 })
    (fun t => (t.status, t.err)) = some (.error, .truncatedStream) := by decide

theorem test_magic_E5 : after (step (hdrState [0x0B#8] []))
    (fun t => (t.status, t.err, t.errinfo)) = some (.error, .invalidMagic, 0#16) := by decide

theorem test_palmark_E8 : after (exec .palmark { State.reset with len := 768, mode := .idx8, status := .palload })
    (fun t => (t.status, t.err)) = some (.error, .truncatedStream) := by decide

/-- As K3 and K4: PAL[0] is the byte at LEN−768 and PAL[767] the last byte. -/
theorem test_palmark_K3 : after (exec .palmark
      { fileState (12#8 :: (List.range 768).map fun j => BitVec.ofNat 8 (j + 1)) with mode := .idx8 })
    (fun t => (t.pal[0], t.pal[767], t.cur)) = some (1#8, 0#8, 128) := by decide +kernel

theorem test_marker_E9 : after (step { fileState [0x0A#8] with len := 769, mode := .idx8, status := .palload })
    (fun t => (t.status, t.err)) = some (.error, .missingPalette) := by decide

/-- A state in DISPATCH with a pair (BPP, NPLANES). -/
def dispatchState (bpp nplanes : Byte) : State :=
  { State.reset with status := .dispatch, pix := some [], hdr := { Header.zero with bpp := bpp, nplanes := nplanes } }

theorem test_modeIdx8_M1 : after (step (dispatchState 8#8 1#8)) (fun t => (t.mode, t.status)) = some (.idx8, .palload) := by
  decide

theorem test_modeRgb24_M2 : after (step (dispatchState 8#8 3#8)) (fun t => (t.mode, t.status)) =
    some (.rgb24, .palload) := by decide

theorem test_modeBp1_M4 : after (step (dispatchState 1#8 2#8)) (fun t => (t.mode, t.status)) = some (.bp1, .palload) := by
  decide

theorem test_dispatch_M8 : after (step (dispatchState 8#8 4#8)) (fun t => (t.err, t.errinfo)) =
    some (.unsupportedFormat, 0x0408#16) := by decide

theorem test_dispatch_M12 : after (step (dispatchState 24#8 1#8)) (fun t => (t.err, t.errinfo)) =
    some (.unsupportedFormat, 0x0118#16) := by decide

theorem test_magic_S1 : after (step (hdrState (headerBytes 8#8 3#8 9#8 9#8 1#8) []))
    (fun t => (t.width, t.height, t.status, t.hdr.version)) = some (10, 10, .dispatch, 5#8) := by decide +kernel

theorem test_dims_H4_H5_H6 : dimension 5#16 3#16 = -1 ∧ dimension 0#16 65535#16 = 65536 ∧
    dimension 65535#16 0#16 = -65534 ∧ le16 0x34#8 0x12#8 = 0x1234#16 := by decide

/-! ### The sinks -/

/-- A sink's state: a position in a small image, with palette entry i = 3i, 3i+1, 3i+2 modulo 256. -/
def sinkState (mode : Mode) (width : Int) (row : BitVec 17) (pln : BitVec 3) (bcnt : BitVec 16) (nplanes : Byte) : State :=
  { State.reset with
    status := .decode, mode := mode, width := width, height := 2, row := row, pln := pln, bcnt := bcnt, pix := some []
    hdr := { Header.zero with nplanes := nplanes, bpl := 1#16 }
    pal := Vector.ofFn fun j => BitVec.ofNat 8 j.val
    acc := List.replicate width.toNat 0#4 }

theorem test_sink_K1 : after (sink 0x07#8 (sinkState .idx8 3 1#17 0#3 2#16 1#8)) (fun t => t.pix) =
    some (some [(20, 21#8), (21, 22#8), (22, 23#8), (23, 0xFF#8)]) := by decide +kernel

theorem test_sink_K5 : after (sink 0x80#8 (sinkState .rgb24 2 0#17 1#3 1#16 3#8)) (fun t => t.pix) =
    some (some [(5, 0x80#8)]) := by decide

theorem test_sink_K6 : after (sink 0x33#8 (sinkState .rgb24 2 1#17 2#3 0#16 3#8)) (fun t => t.pix) =
    some (some [(10, 0x33#8), (11, 0xFF#8)]) := by decide

theorem test_sink_K8 : after (sink 0x80#8 (sinkState .bp1 8 0#17 0#3 0#16 1#8))
    (fun t => (t.acc, pixByte t 0, pixByte t 3, pixByte t 4)) =
    some ([1#4, 0#4, 0#4, 0#4, 0#4, 0#4, 0#4, 0#4], some 3#8, some 0xFF#8, some 0#8) := by decide +kernel

/-! ### Witnesses: the hypotheses of each statement can be met -/

theorem witness_EveryFirstByteStartsAToken : (0x00#8).toNat < 0xC0 ∧ (0xBF#8).toNat < 0xC0 ∧ 0xC0 ≤ (0xC0#8).toNat ∧
    0xC0 ≤ (0xFF#8).toNat := by decide

theorem witness_CountIsLowSixBits :
    (isRun 0xC0#8 = true ∧ decode .token [0xC0#8, 0xC1#8] = .ok (.run 0#6 0xC1#8) []) ∧
    (isRun 0xFF#8 = true ∧ decode .token [0xFF#8, 7#8, 8#8] = .ok (.run 63#6 7#8) [8#8]) ∧
    (isRun 0xBF#8 = false ∧ decode .token [0xBF#8] = .ok (.lit 0xBF#8) [] ∧
      ∃ t, exec (.lit 0xBF#8) (streamState .idx8 [0xBF#8]) = .next t ∧ t.status ≠ .error) :=
  ⟨by decide, by decide, by decide, by decide, _, rfl, by decide⟩

theorem witness_DecodeOfEncode : (Instr.lit 0xBF#8).wf = true ∧ (Instr.run 0#6 0xFF#8).wf = true ∧
    Instr.magic.wf = true ∧ (Instr.modeBp1 4#8).wf = true := by decide

theorem witness_EncodeOfDecode : decode .token [0xC0#8, 0xC0#8, 1#8] = .ok (.run 0#6 0xC0#8) [1#8] ∧
    decode .key [1#8, 4#8] = .ok (.modeBp1 4#8) [] ∧ decode .marker [12#8] = .ok .palmark [] := by decide

theorem witness_DecodeAgreesWithOpcodeTable :
    (∃ r ∈ opcodeTable, 0xBF < 2 ^ r.nbits ∧ r.hit 0xBF = true ∧ r.mnemonic = "LIT") ∧
    (∃ r ∈ opcodeTable, 0x0104 < 2 ^ r.nbits ∧ r.hit 0x0104 = true ∧ r.mnemonic = "MODE.BP1") ∧
    (Instr.lit 0x80#8).wf = true ∧ (Instr.run 63#6 0xFF#8).wf = true := by decide

theorem witness_AssemblerRefusesWhatCannotBeEncoded : 0xC0 ≤ 0xFF ∧ 0xBF < 0xC0 ∧ 63 < 64 ∧ 63 ≤ 63 := by decide

theorem witness_PseudoInstructionsDeliver : 1 ≤ 63 ∧ 1 ≤ 64 ∧ expand (encodeAll (asmFill 64 0xC0#8)) =
    List.replicate 64 0xC0#8 := by decide

theorem witness_TokenStreamExpands :
    (∀ i ∈ [Instr.lit 0xBF#8, Instr.run 63#6 0xC0#8, Instr.run 0#6 1#8], i.wf = true ∧ i.slot = .token) ∧
    (∀ b ∈ [0x00#8, 0x01#8, 0x7F#8, 0x80#8, 0xBF#8], b.toNat < 0xC0) := by decide

theorem witness_StepRunsDecodedInstruction :
    (fetchBytes .magic (hdrState [10#8] []) = .ok [10#8] ∧ decode .magic [10#8] = .ok .magic [] ∧
      (hdrState [10#8] []).host = [] ∧ (hdrState [10#8] []).status = .hdr) ∧
    (fetchBytes .key (dispatchState 1#8 4#8) = .ok [1#8, 4#8] ∧ decode .key [1#8, 4#8] = .ok (.modeBp1 4#8) [] ∧
      (dispatchState 1#8 4#8).host = [] ∧ (dispatchState 1#8 4#8).status = .dispatch) ∧
    (∃ s : State, fetchBytes .marker s = .ok [12#8] ∧ decode .marker [12#8] = .ok .palmark [] ∧
      s.host = [] ∧ s.status = .palload ∧ s.mode = .idx8) ∧
    (fetchBytes .token (streamState .idx8 [0xC0#8, 7#8]) = .ok [0xC0#8, 7#8] ∧
      decode .token [0xC0#8, 7#8] = .ok (.run 0#6 7#8) [] ∧ (streamState .idx8 [0xC0#8, 7#8]).status = .decode ∧
      (streamState .idx8 [0xC0#8, 7#8]).host = [] ∧ (streamState .idx8 [0xC0#8, 7#8]).runlen = 0#6) :=
  ⟨⟨rfl, rfl, rfl, rfl⟩, ⟨rfl, rfl, rfl, rfl⟩,
    ⟨{ fileState [12#8] with len := 769, status := .palload, mode := .idx8 }, rfl, rfl, rfl, rfl, rfl⟩,
    rfl, rfl, rfl, rfl, rfl⟩

theorem witness_LitLoadsOneByte :
    (let s := streamState .idx8 [0xBF#8];
      s.cur < s.len ∧ inByte s s.cur = some 0xBF#8 ∧ isRun 0xBF#8 = false) ∧
    (let s := streamState .idx8 [];
      s.len ≤ s.cur) := by decide

theorem witness_RunLoadsCountAndValue :
    (let s := streamState .idx8 [0xC0#8, 1#8];
      s.cur + 1 < s.len ∧ inByte s s.cur = some (0b11#2 ++ 0#6) ∧ inByte s (s.cur + 1) = some 1#8) ∧
    (streamState .idx8 [0xC1#8]).len ≤ (streamState .idx8 [0xC1#8]).cur + 1 := by decide

theorem witness_FetchPastTheEndRaisesTruncated :
    (let s := streamState .idx8 [];
      s.host = [] ∧ s.status = .decode ∧ s.runlen = 0#6 ∧ s.len ≤ s.cur) ∧
    (let s := streamState .idx8 [0xC0#8];
      s.host = [] ∧ s.status = .decode ∧ s.runlen = 0#6 ∧ s.cur + 1 = s.len ∧
        ∃ c, inByte s s.cur = some c ∧ isRun c = true) :=
  ⟨by decide, by decide, by decide, by decide, by decide, _, rfl, by decide⟩

theorem witness_ZeroCountRunIsSkipped :
    let s := streamState .idx8 [0xC0#8, 0xC0#8]
    s.host = [] ∧ s.status = .decode ∧ s.runlen = 0#6 ∧ s.cur + 1 < s.len ∧ inByte s s.cur = some 0xC0#8 ∧
      inByte s (s.cur + 1) = some 0xC0#8 := by decide

theorem witness_TokenFrame :
    (Instr.run 2#6 0#8).slot = .token ∧ (∃ t, exec (.run 2#6 0#8) (streamState .idx8 [0xC2#8, 0#8]) = .next t) ∧
    (∃ t, exec (.run 2#6 0#8) (streamState .idx8 [0xC2#8]) = .next t) ∧
    (Instr.lit 2#8).slot = .token ∧ (∃ t, exec (.lit 2#8) (streamState .idx8 [2#8]) = .next t) :=
  ⟨rfl, ⟨_, rfl⟩, ⟨_, rfl⟩, rfl, _, rfl⟩

theorem witness_MagicByteIsTheFirstCheck :
    (let s := hdrState [] [];
      s.host = [] ∧ s.status = .hdr ∧ s.len = 0) ∧
    (let s := hdrState [11#8] [];
      s.host = [] ∧ s.status = .hdr ∧ 0 < s.len ∧ inByte s 0 = some 11#8 ∧ (11#8 : Byte) ≠ 10#8) ∧
    (let s := hdrState [10#8] [];
      s.host = [] ∧ s.status = .hdr ∧ 0 < s.len ∧ inByte s 0 = some 10#8) := by decide

theorem witness_ShortHeaderIsTruncated : ({ State.reset with len := 127 } : State).len < 128 := by decide

theorem witness_MagicLoadsTheHeader :
    let s := hdrState (headerBytes 8#8 3#8 0#8 0#8 1#8) []
    s.input.wf ∧ Loaded s ∧ 128 ≤ s.len ∧ (wordAt s 4).toNat ≤ (wordAt s 8).toNat ∧
      (wordAt s 6).toNat ≤ (wordAt s 10).toNat :=
  ⟨cells_wf _ _, loaded_cells rfl rfl, by decide +kernel, by decide +kernel, by decide +kernel⟩

theorem witness_EmptyBoundingBoxRaises :
    let h : List Byte := [10#8, 5#8, 1#8, 8#8, 1#8, 0#8, 0#8, 0#8, 0#8, 0#8, 0#8, 0#8] ++ List.replicate 116 0#8
    let s := hdrState h []
    s.input.wf ∧ Loaded s ∧ 128 ≤ s.len ∧ (wordAt s 8).toNat < (wordAt s 4).toNat :=
  ⟨cells_wf _ _, loaded_cells rfl rfl, by decide +kernel, by decide +kernel⟩

theorem witness_DispatchSelectsTheMode :
    ((dispatchState 8#8 1#8).host = [] ∧ (dispatchState 8#8 1#8).status = .dispatch ∧ SupportedPair 8#8 1#8 .idx8) ∧
    SupportedPair 8#8 3#8 .rgb24 ∧ SupportedPair 1#8 1#8 .bp1 ∧ SupportedPair 1#8 4#8 .bp1 ∧
    (∀ m, ¬ SupportedPair 1#8 0#8 m) ∧ (∀ m, ¬ SupportedPair 1#8 5#8 m) ∧ (∀ m, ¬ SupportedPair 8#8 2#8 m) :=
  ⟨by decide, by decide, by decide, by decide, fun m => by cases m <;> decide, fun m => by cases m <;> decide,
    fun m => by cases m <;> decide⟩

theorem witness_MarkerIsChecked :
    (let s : State := { State.reset with status := .palload, mode := .idx8, len := 768 };
      s.host = [] ∧ s.status = .palload ∧ s.mode = .idx8 ∧ s.len < 769) ∧
    (let s : State := { fileState [11#8] with status := .palload, mode := .idx8, len := 769 };
      s.host = [] ∧ 769 ≤ s.len ∧ inByte s (s.len - 769) = some 11#8 ∧ (11#8 : Byte) ≠ 12#8) ∧
    (let s : State := { fileState [12#8] with status := .palload, mode := .idx8, len := 769 };
      s.host = [] ∧ 769 ≤ s.len ∧ inByte s (s.len - 769) = some 12#8) := by decide

theorem witness_PalmarkLoadsThePalette :
    (let s := fileState (List.replicate 769 12#8);
      s.input.wf ∧ Loaded s ∧ 769 ≤ s.len) ∧
    (let s := fileState (List.replicate 3 12#8);
      s.input.wf ∧ Loaded s ∧ s.len < 769) :=
  ⟨⟨cells_wf _ _, loaded_cells rfl rfl, by rw [fileState_len, List.length_replicate]⟩, cells_wf _ _, loaded_cells rfl rfl, by decide⟩

theorem witness_PalloadWithoutMarker :
    (let s : State := { State.reset with status := .palload, mode := .bp1 };
      s.host = [] ∧ s.status = .palload ∧ s.mode = .bp1) ∧
    (let s : State := { State.reset with status := .palload, mode := .rgb24 };
      s.host = [] ∧ s.status = .palload ∧ s.mode = .rgb24) := by decide

theorem witness_ConfigurationFrame :
    (∃ t, exec .magic { State.reset with len := 127 } = .next t) ∧
    (∃ t, exec .modeIdx8 State.reset = .next t) ∧ (∃ t, exec .modeRgb24 State.reset = .next t) ∧
    (∃ t, exec (.modeBp1 4#8) State.reset = .next t) ∧ (∃ t, exec .palmark State.reset = .next t) :=
  ⟨⟨_, rfl⟩, ⟨_, rfl⟩, ⟨_, rfl⟩, ⟨_, rfl⟩, _, rfl⟩

theorem witness_Idx8SinkWritesOnePixel :
    (let s := sinkState .idx8 3 1#17 0#3 3#16 1#8;
      s.mode = .idx8 ∧ s.pix = some [] ∧ s.width ≤ s.bcnt.toNat) ∧
    (let s := sinkState .idx8 3 1#17 0#3 2#16 1#8;
      s.mode = .idx8 ∧ s.pix = some [] ∧ (s.bcnt.toNat : Int) < s.width ∧ (s.row.toNat : Int) < s.height) :=
  ⟨⟨rfl, rfl, by decide⟩, rfl, rfl, by decide, by decide⟩

theorem witness_Rgb24SinkWritesOneChannel :
    (let s := sinkState .rgb24 2 0#17 2#3 2#16 3#8;
      s.mode = .rgb24 ∧ s.pix = some [] ∧ s.width ≤ s.bcnt.toNat) ∧
    (let s := sinkState .rgb24 2 1#17 2#3 1#16 3#8;
      s.mode = .rgb24 ∧ s.pix = some [] ∧ (s.bcnt.toNat : Int) < s.width ∧ (s.row.toNat : Int) < s.height ∧
        s.pln.toNat ≤ 2) :=
  ⟨⟨rfl, rfl, by decide⟩, rfl, rfl, by decide, by decide, by decide⟩

theorem witness_Bp1SinkAccumulatesAndResolves :
    (let s := sinkState .bp1 10 1#17 0#3 1#16 2#8;
      s.mode = .bp1 ∧ s.pix = some [] ∧ s.acc.length = s.width.toNat ∧ (s.row.toNat : Int) < s.height ∧
        s.pln.toNat + 1 ≠ s.hdr.nplanes.toNat) ∧
    (let s := sinkState .bp1 10 1#17 1#3 1#16 2#8;
      s.mode = .bp1 ∧ s.pix = some [] ∧ s.acc.length = s.width.toNat ∧ (s.row.toNat : Int) < s.height ∧
        s.pln.toNat + 1 = s.hdr.nplanes.toNat) :=
  ⟨⟨rfl, rfl, by decide, by decide, by decide⟩, rfl, rfl, by decide, by decide, by decide⟩

theorem witness_PaddingIsDroppedAndCounted :
    (let s := sinkState .idx8 3 0#17 0#3 3#16 1#8;
      s.mode ≠ .none ∧ s.width ≤ (s.bcnt.toNat : Int)) ∧
    (let s : State := { sinkState .bp1 8 0#17 0#3 1#16 1#8 with runlen := 1#6 };
      s.mode ≠ .none ∧ s.width ≤ ((8 * s.bcnt.toNat : Nat) : Int) ∧ s.host = [] ∧ s.status = .decode ∧
        s.runlen ≠ 0#6) ∧
    (let s := sinkState .bp1 10 0#17 0#3 1#16 1#8;
      s.mode = .bp1 ∧ ∀ i < 8, ((8 * s.bcnt.toNat + i : Nat) : Int) < s.width →
        columnBit Config.bitOrder 0x80#8 i = columnBit Config.bitOrder 0xBF#8 i) :=
  ⟨⟨by decide, by decide⟩, ⟨by decide, by decide, rfl, rfl, by decide⟩, rfl, by decide⟩

theorem witness_DeliveryFrame :
    (∃ t, deliver (sinkState .idx8 3 1#17 0#3 2#16 1#8) = .next t) ∧
    (∃ t, deliver (sinkState .rgb24 3 1#17 2#3 2#16 3#8) = .next t) ∧
    (∃ t, deliver (sinkState .bp1 3 1#17 0#3 0#16 1#8) = .next t) :=
  ⟨⟨_, rfl⟩, ⟨_, rfl⟩, _, rfl⟩

theorem witness_AdvanceFollowsTheLoopNest :
    (let s : State := { sinkState .bp1 3 0#17 1#3 0#16 3#8 with
        hdr := { Header.zero with nplanes := 3#8, bpl := 2#16 } };
      s.bcnt.toNat < s.hdr.bpl.toNat ∧ s.pln.toNat < s.hdr.nplanes.toNat ∧ s.hdr.nplanes.toNat ≤ 4 ∧
        (s.row.toNat : Int) < s.height ∧ s.height ≤ 65536 ∧ s.bcnt.toNat + 1 < s.hdr.bpl.toNat) ∧
    (let s := sinkState .bp1 3 0#17 1#3 0#16 3#8;
      s.bcnt.toNat + 1 = s.hdr.bpl.toNat ∧ s.pln.toNat + 1 < s.hdr.nplanes.toNat ∧ (s.row.toNat : Int) < s.height) ∧
    (let s := sinkState .bp1 3 1#17 2#3 0#16 3#8;
      s.bcnt.toNat + 1 = s.hdr.bpl.toNat ∧ s.pln.toNat + 1 = s.hdr.nplanes.toNat ∧ (s.row.toNat : Int) + 1 = s.height) :=
  ⟨⟨by decide, by decide, by decide, by decide, by decide, by decide⟩, ⟨by decide, by decide, by decide⟩,
    by decide, by decide, by decide⟩

theorem witness_RunsCrossBoundaries :
    let s : State := { sinkState .rgb24 2 0#17 0#3 0#16 3#8 with runlen := 2#6 }
    s.host = [] ∧ s.status = .decode ∧ s.runlen ≠ 0#6 ∧ ∃ t, step s = .next t :=
  ⟨rfl, rfl, by decide, _, rfl⟩

/-- A 1×1 true-colour image whose stream is `RUN 3, 05`, and one whose stream ends too soon. -/
def rgbEntry : State := entryState .rgb24 8#8 3#8 0#8 0#8 1#8 [0xC3#8, 0x05#8]
def rgbShort : State := entryState .rgb24 8#8 3#8 0#8 0#8 1#8 [0xC3#8]

/-- A 1×1 image of the 1-bit mode whose stream is one literal. -/
def bp1Entry : State := entryState .bp1 1#8 1#8 0#8 0#8 1#8 [0x80#8]

theorem rgbEntry_entry : DecodeEntry rgbEntry := entry_of (by decide) (by decide) (by decide) nofun
theorem rgbShort_entry : DecodeEntry rgbShort := entry_of (by decide) (by decide) (by decide) nofun
theorem bp1Entry_entry : DecodeEntry bp1Entry := entry_of (by decide) (by decide) (by decide) nofun

/-- A 1×1 image of the 8-bit mode: the header, one literal, the marker and the palette. -/
theorem idx8_entry : ∃ stream, DecodeEntry (entryState .idx8 8#8 1#8 0#8 0#8 1#8 stream) := by
  let stream : List Byte := 0x07#8 :: 0x0C#8 :: List.replicate 768 0#8
  have hl : stream.length = 770 := by simp only [stream, List.length_cons, List.length_replicate]
  refine ⟨stream, entry_of (by decide) (by decide) (by decide) fun _ => ⟨by omega, ?_⟩⟩
  have h : (headerBytes 8#8 1#8 0#8 0#8 1#8 ++ stream)[129]? = some 12#8 := by
    rw [List.getElem?_append_right (by rw [headerBytes_length]; decide), headerBytes_length]; rfl
  rw [hl]; exact (read_cells 0 _ 129).trans h

/-! ### Witnesses for the statements over the invariant -/

theorem rgbEntry_step : ∃ t, step rgbEntry = .next t ∧ t.status ≠ .error := by
  obtain ⟨t, h, e⟩ := after_some (show after (step rgbEntry) (fun t => t.status) = some .decode by decide +kernel)
  exact ⟨t, h, by rw [e]; decide⟩

theorem witness_PositionMovesByOneByte :
    Inv rgbEntry ∧ rgbEntry.host = [] ∧ rgbEntry.status = .decode ∧
      ∃ t, step rgbEntry = .next t ∧ t.status ≠ .error :=
  ⟨rgbEntry_entry.inv, rfl, rfl, rgbEntry_step⟩

theorem witness_ByteStepDeliversTheNextByte :
    (Inv rgbEntry ∧ Loaded rgbEntry ∧ rgbEntry.host = [] ∧ rgbEntry.status = .decode ∧
      pending rgbEntry = 5#8 :: [5#8, 5#8]) ∧
    (Inv rgbShort ∧ Loaded rgbShort ∧ rgbShort.host = [] ∧ rgbShort.status = .decode ∧ pending rgbShort = []) :=
  ⟨⟨rgbEntry_entry.inv, rgbEntry_entry.loaded, rfl, rfl, by decide +kernel⟩,
    rgbShort_entry.inv, rgbShort_entry.loaded, rfl, rfl, by decide +kernel⟩

theorem witness_CursorOnlyMovesForward :
    Inv rgbEntry ∧ rgbEntry.host = [] ∧ rgbEntry.status = .decode ∧ ∃ t, step rgbEntry = .next t :=
  ⟨rgbEntry_entry.inv, rfl, rfl, rgbEntry_step.imp fun _ h => h.1⟩

theorem witness_RaiseWritesThreeRegisters : (raise .missingPalette 0#16 State.reset).host = [] := rfl

theorem witness_QuiescentPhasesKeepAllState :
    (State.reset.host = [] ∧ State.reset.status = .idle) ∧ (∃ s : State, s.host = [] ∧ s.status = .error) ∧
    ∃ s : State, s.status = .done ∧ s.host = .writeLen 1 :: [] ∧ HostMove.writeLen 1 ≠ .start ∧
      HostMove.writeLen 1 ≠ .reset :=
  ⟨⟨rfl, rfl⟩, ⟨raise .missingPalette 0#16 State.reset, rfl, rfl⟩,
    { State.reset with status := .done, host := [.writeLen 1] }, rfl, rfl, by decide, by decide⟩

theorem witness_PhasesFollowInOrder : State.reset.host = [] ∧ ∃ t, step State.reset = .next t := ⟨rfl, _, rfl⟩

/-- A step that raises an error from a phase that had none. -/
theorem raising {s : State} {e : Err} (hh : s.host = []) (hs : s.status ≠ .error)
    (h : after (step s) (fun t => (t.status, t.err)) = some (.error, e)) :
    s.host = [] ∧ s.status ≠ .error ∧ ∃ t, step s = .next t ∧ t.status = .error ∧ t.err = e := by
  obtain ⟨t, h1, h2⟩ := after_some h
  obtain ⟨h2, h3⟩ := Prod.mk.inj h2
  exact ⟨hh, hs, t, h1, h2, h3⟩

theorem witness_EveryErrorHasItsCause (e : Err) (he : e ≠ .none) :
    ∃ s : State, s.host = [] ∧ s.status ≠ .error ∧ ∃ t, step s = .next t ∧ t.status = .error ∧ t.err = e := by
  cases e with
  | none => exact absurd rfl he
  | invalidMagic => exact ⟨hdrState [11#8] [], raising rfl (by decide) (by decide)⟩
  | invalidDimensions =>
    exact ⟨hdrState ([10#8, 5#8, 1#8, 8#8, 1#8] ++ List.replicate 123 0#8) [], raising rfl (by decide) (by decide +kernel)⟩
  | unsupportedFormat => exact ⟨dispatchState 1#8 5#8, raising rfl (by decide) (by decide)⟩
  | missingPalette =>
    exact ⟨{ fileState [11#8] with status := .palload, mode := .idx8, len := 769 }, raising rfl (by decide) (by decide)⟩
  | truncatedStream => exact ⟨streamState .idx8 [0xC0#8], raising rfl (by decide) (by decide)⟩

theorem witness_ResetIsTakenInEveryPhase : ∃ s : State, s.host = .reset :: [.start] ∧ busy s = true :=
  ⟨{ rgbEntry with host := [.reset, .start] }, rfl, rfl⟩

theorem witness_StartBeginsOnlyWhenNotBusy :
    (∃ s : State, s.host = .start :: [] ∧ busy s = true) ∧ (∃ s : State, s.host = .start :: [] ∧ busy s = false) :=
  ⟨⟨{ rgbEntry with host := [.start] }, rfl, rfl⟩, { State.reset with host := [.start] }, rfl, rfl⟩

theorem witness_HostWritesOnlyWhenNotBusy :
    (∃ s : State, busy s = false ∧ s.host = .writeIn 0 10#8 :: []) ∧ (∃ s : State, busy s = false ∧ s.host = .writeLen 0 :: []) ∧
    (∃ s : State, busy s = true ∧ s.host = .writeIn 0 10#8 :: []) ∧ (∃ s : State, busy s = true ∧ s.host = .writeLen 0 :: []) :=
  ⟨⟨{ State.reset with host := [.writeIn 0 10#8] }, rfl, rfl⟩, ⟨{ State.reset with host := [.writeLen 0] }, rfl, rfl⟩,
    ⟨{ rgbEntry with host := [.writeIn 0 10#8] }, rfl, rfl⟩, { rgbEntry with host := [.writeLen 0] }, rfl, rfl⟩

theorem witness_HostReadsAfterTheEnd : busy rgbEntry = true ∧ rgbEntry.status ≠ .done ∧ HostReg.err ≠ HostReg.status ∧
    HostReg.cur ≠ HostReg.status ∧ HostReg.cur ≠ HostReg.err ∧ HostReg.cur ≠ HostReg.errinfo ∧
    ∃ s : State, s.status = .done :=
  ⟨by decide, by decide, by decide, by decide, by decide, by decide, { State.reset with status := .done }, rfl⟩

theorem witness_EveryStepKeepsTheInvariant : Inv rgbEntry ∧ ∃ t, step rgbEntry = .next t :=
  ⟨rgbEntry_entry.inv, rgbEntry_step.imp fun _ h => h.1⟩

theorem rgbEntry_covered : Covered rgbEntry := by
  intro _ a
  simp [pixByte, WrittenBefore, Delivered, rgbEntry, entryState, fileState, State.reset, Memory.read]

theorem witness_EveryStepKeepsTheCoverage : Inv rgbEntry ∧ Covered rgbEntry ∧ ∃ t, step rgbEntry = .next t :=
  ⟨rgbEntry_entry.inv, rgbEntry_covered, rgbEntry_step.imp fun _ h => h.1⟩

theorem witness_BlockNeverWritesItsInputs : rgbEntry.host = [] ∧ rgbEntry.status = .decode ∧ ∃ t, step rgbEntry = .next t :=
  ⟨rfl, rfl, rgbEntry_step.imp fun _ h => h.1⟩

/-- The true-colour image after its first byte: plane 1 is next, and the R byte of the pixel is written. -/
def rgbMid : State := { rgbEntry with runlen := 2#6, runval := 5#8, cur := 130, pln := 1#3, pix := some [(0, 5#8)] }

theorem rgbMid_inv : Inv rgbMid where
  inputWf := cells_wf _ _
  pixWf := by simp [rgbMid]
  pixInside := by simp [rgbMid, pixSize, rgbEntry, entryState]
  errIff := by simp [rgbMid, rgbEntry, entryState, fileState, State.reset]
  infoOnly := fun _ => rfl
  pixIff := rfl
  modeNone := by simp [rgbMid, rgbEntry, entryState]
  dims := fun _ => by decide
  dimsOf := fun _ => by decide
  headerLen := fun _ => by decide +kernel
  fresh := by simp [rgbMid, rgbEntry, entryState]
  pair := fun _ => by decide
  counters := fun _ => by decide +kernel
  marker := by simp [rgbMid, rgbEntry, entryState]
  accs := by simp [rgbMid, rgbEntry, entryState]
  ended := by simp [rgbMid, rgbEntry, entryState]

theorem witness_PixBytesAreWrittenOnce :
    Inv rgbMid ∧ Covered rgbMid ∧ rgbMid.host = [] ∧ rgbMid.status = .decode ∧
      (∃ t, step rgbMid = .next t ∧ t.status ≠ .error) ∧ pixByte rgbMid 0 = some 5#8 := by
  refine ⟨rgbMid_inv, fun _ a => ?_, rfl, rfl, ?_, rfl⟩
  · by_cases h : a < 4
    · revert h a; decide +kernel
    · have : pixByte rgbMid a = none := by simp [pixByte, rgbMid, Memory.read]; omega
      simp only [this, WrittenBefore, Option.isSome_none, Bool.false_eq_true, false_iff, not_and]
      intro h'; exact absurd h' h
  · obtain ⟨t, h, e⟩ := after_some (show after (step rgbMid) (fun t => t.status) = some .decode by decide +kernel)
    exact ⟨t, h, by rw [e]; decide⟩

/-- A finished true-colour image of two columns whose scanlines hold one byte: column 1 is not covered. -/
def rgbDone : State :=
  { entryState .rgb24 8#8 3#8 1#8 0#8 1#8 [0xC3#8, 0x05#8] with
    status := .done, row := 1#17, cur := 130, pix := some [(0, 5#8), (1, 5#8), (2, 5#8), (3, 0xFF#8)] }

theorem rgbDone_inv : Inv rgbDone :=
  { (entry_of (by decide) (by decide) (by decide) nofun :
      DecodeEntry (entryState .rgb24 8#8 3#8 1#8 0#8 1#8 [0xC3#8, 0x05#8])).inv with
    pixWf := by simp [rgbDone]
    pixInside := by simp [rgbDone, pixSize, entryState]; intro a b h; omega
    errIff := by simp [rgbDone, entryState, fileState, State.reset]
    pixIff := rfl
    modeNone := by simp [rgbDone]
    dims := fun _ => by decide
    headerLen := by simp [rgbDone]
    fresh := by simp [rgbDone]
    pair := fun _ => by decide
    counters := by simp [rgbDone]
    marker := by simp [rgbDone]
    accs := by simp [rgbDone]
    ended := fun _ => by decide }

theorem witness_CompletedDecodeCoversTheColumns : Inv rgbDone ∧ Covered rgbDone ∧ rgbDone.status = .done := by
  refine ⟨rgbDone_inv, fun _ a => ?_, rfl⟩
  by_cases h : a < 8
  · revert h a; decide +kernel
  · have : pixByte rgbDone a = none := by
      simp only [pixByte, rgbDone, Option.bind_some, Memory.read]
      repeat rw [if_neg (by omega)]
    simp only [this, WrittenBefore, Option.isSome_none, Bool.false_eq_true, false_iff, not_and]
    intro h'; exact absurd h' h

theorem witness_LoadedBlockNeverStops : Inv rgbEntry ∧ Loaded rgbEntry ∧ rgbEntry.host = [] :=
  ⟨rgbEntry_entry.inv, rgbEntry_entry.loaded, rfl⟩

theorem witness_ConfigurationReportsTheFirstError :
    (let s := hdrState (headerBytes 8#8 3#8 0#8 0#8 1#8) [];
      Inv s ∧ Loaded s ∧ s.host = [] ∧ s.status = .hdr ∧ configError s = .none) ∧
    (let s := hdrState (headerBytes 4#8 1#8 0#8 0#8 1#8) [];
      Inv s ∧ Loaded s ∧ s.host = [] ∧ s.status = .hdr ∧ configError s = .unsupportedFormat) :=
  ⟨⟨hdr_inv _ _, loaded_cells rfl rfl, rfl, rfl, by decide +kernel⟩,
    hdr_inv _ _, loaded_cells rfl rfl, rfl, rfl, by decide +kernel⟩

theorem witness_DecodeEndsAsTheStreamLengthSays :
    (DecodeEntry rgbEntry ∧ imageBytes rgbEntry ≤ (expand (inputFrom rgbEntry 128)).length) ∧
    (DecodeEntry rgbShort ∧ (expand (inputFrom rgbShort 128)).length < imageBytes rgbShort) :=
  ⟨⟨rgbEntry_entry, by decide +kernel⟩, rgbShort_entry, by decide +kernel⟩

theorem witness_EveryStartEnds :
    let s := idleState (headerBytes 8#8 3#8 0#8 0#8 1#8 ++ [0xC3#8, 0x05#8]) [.start]
    Inv s ∧ Loaded s ∧ busy s = false ∧ s.host = [.start] :=
  ⟨idle_inv _ _, loaded_cells rfl rfl, rfl, rfl⟩

theorem run_one {s t : State} (h : step s = .next t) : Sys2Proof.core.run 1 s = .next t := by
  simp [Host.Core.run, core, h]

theorem witness_DecodedImageIsTheStreamsImage :
    DecodeEntry bp1Entry ∧ ∃ t, Sys2Proof.core.run 1 bp1Entry = .next t ∧ t.status = .done := by
  obtain ⟨t, h, e⟩ := after_some (show after (step bp1Entry) (fun t => t.status) = some .done by decide +kernel)
  exact ⟨bp1Entry_entry, t, run_one h, e⟩

theorem witness_StartResultDependsOnInputAlone :
    ∃ s u : State, busy s = false ∧ busy u = false ∧ s.host = [.start] ∧ u.host = [.start] ∧ s.len = u.len ∧
      s.input = u.input ∧ s.runval ≠ u.runval ∧ ∃ s', Sys2Proof.core.run (0 + 1) s = .next s' :=
  ⟨idleState [10#8] [.start], { idleState [10#8] [.start] with runval := 7#8 }, rfl, rfl, rfl, rfl, rfl, rfl, by decide,
    _, rfl⟩

theorem witness_ExceptionsArePrecise :
    (∃ s : State, s.host = [] ∧ s.status ≠ .error ∧ ∃ t, step s = .next t ∧ t.status = .error ∧ t.err = .invalidMagic) ∧
    (∃ s : State, s.host = [] ∧ s.status ≠ .error ∧
      ∃ t, step s = .next t ∧ t.status = .error ∧ t.err = .invalidDimensions) ∧
    (let s := streamState .idx8 [0xC0#8];
      s.status = .decode ∧ s.host = [] ∧ s.status ≠ .error ∧
        ∃ t, step s = .next t ∧ t.status = .error ∧ t.err = .truncatedStream) ∧
    (let s := streamState .idx8 [0xC0#8, 0x07#8, 0xC0#8];
      s.status = .decode ∧ s.host = [] ∧ s.status ≠ .error ∧
        ∃ t, step s = .next t ∧ t.status = .error ∧ t.err = .truncatedStream) :=
  ⟨witness_EveryErrorHasItsCause .invalidMagic (by decide), witness_EveryErrorHasItsCause .invalidDimensions (by decide),
    ⟨rfl, raising rfl (by decide) (by decide)⟩, rfl, raising rfl (by decide) (by decide)⟩

/-- T10: two RUNs of count 0 are skipped, and CUR is at the token whose fetch failed. -/
theorem test_precision_T10 : after (step (streamState .idx8 [0xC0#8, 0x00#8, 0xC0#8, 0x01#8]))
    (fun t => (t.err, t.runval, t.cur, t.len)) = some (.truncatedStream, 0x01#8, 4, 4) := by decide

end Sys2Proof.Tests
end

section
/-! PROOFS. Scope (spec 00_scope.md): what taking an exception does (R10). -/

namespace Sys2Proof.Machine

/-- While PIX does not exist, none of its bytes has a value. -/
theorem pixByte_of_pix_none {s : State} (h : s.pix = none) (a : Nat) : pixByte s a = none := by
  simp [pixByte, h]

/-- The host reads PIX in DONE only (R45). -/
theorem hostReadPix_of_status_ne_done {s : State} (h : s.status ≠ .done) (a : Nat) : hostReadPix a s = none := by
  simp [hostReadPix, h]

/-- In ERROR the block takes no step: its state stays (R229). -/
theorem blockStep_of_error {s : State} (h : s.status = .error) : blockStep s = .next s := by
  simp [blockStep, h]

/-- Settles O35: PIX ceases to exist and STATUS is ERROR, a phase in which the host reads no PIX and the block stays. -/
theorem raiseWritesThreeRegisters : Obligations.RaiseWritesThreeRegisters := by
  intro e info s
  have herror : (raise e info s).status = .error := raise_status s e info
  have hnotDone : (raise e info s).status ≠ .done := by simp
  have hhost : (raise e info s).host = s.host := raise_host s e info
  refine ⟨rfl, fun a => ⟨?_, ?_⟩, fun halone => ?_⟩
  · exact pixByte_of_pix_none (raise_pix s e info) a
  · exact hostReadPix_of_status_ne_done hnotDone a
  · rw [step_of_alone (hhost.trans halone), blockStep_of_error herror]

end Sys2Proof.Machine
end

section
/-! PROOFS. Encoding (spec 30_encoding.md): a token's first byte alone tells LIT from RUN, and its low six bits are the
count of a RUN (R93, R94). -/

namespace Sys2Proof

/-- The bytes below 0xC0 are those with the top two bits not both set (R90). -/
theorem isRun_eq_false_iff (c : Byte) : isRun c = false ↔ c.toNat < 0xC0 := by
  rw [← Bool.not_eq_true, isRun_iff, not_le]

/-- R91: a first byte that is no control byte is a whole LIT. -/
theorem decode_token_of_not_isRun {c : Byte} (h : isRun c = false) (rest : List Byte) :
    decode .token (c :: rest) = .ok (.lit c) rest := by
  simp [decode, decodeToken, h]

/-- R92: a control byte and the byte after it, whatever that is, are a whole RUN. -/
theorem decode_token_of_isRun {c : Byte} (h : isRun c = true) (v : Byte) (rest : List Byte) :
    decode .token (c :: v :: rest) = .ok (.run (runCount c) v) rest := by
  simp [decode, decodeToken, h]

/-- R93: taking the low six bits is masking with 0x3F; both are the remainder by 64. -/
theorem runCount_toNat_eq_mask (c : Byte) : (runCount c).toNat = (c &&& 0x3F#8).toNat := by
  have hmask : c.toNat &&& 0x3F = c.toNat % 2 ^ 6 := Nat.and_two_pow_sub_one_eq_mod c.toNat 6
  simp [runCount, hmask]

/-- Settles O2: the number of the first byte fixes `isRun`, and `isRun` fixes the token. -/
theorem everyFirstByteStartsAToken : Obligations.EveryFirstByteStartsAToken := by
  intro c v rest
  refine ⟨fun hlow => ⟨?_, rfl⟩, fun hhigh => ?_⟩
  · exact decode_token_of_not_isRun ((isRun_eq_false_iff c).mpr hlow) rest
  · have hrun : isRun c = true := (isRun_iff c).mpr hhigh
    have hcount : (runCount c).toNat = c.toNat - 0xC0 := Nat.eq_sub_of_add_eq (runCount_toNat c hrun)
    exact ⟨runCount c, hcount, decode_token_of_isRun hrun v rest, rfl⟩

/-- Settles O3: the decoded RUN holds `runCount` of its control byte; a LIT that does not raise loads a run of one. -/
theorem countIsLowSixBits : Obligations.CountIsLowSixBits := by
  refine ⟨fun c v rest i r hrun hdec => ?_, fun c rest i r s t hlit hdec hexec hok => ?_⟩
  · rw [decode_token_of_isRun hrun] at hdec
    obtain ⟨rfl, rfl⟩ := Decoded.ok.inj hdec
    exact ⟨runCount c, rfl, rfl, runCount_toNat_eq_mask c, runCount_toNat c hrun⟩
  · rw [decode_token_of_not_isRun hlit] at hdec
    obtain ⟨rfl, rfl⟩ := Decoded.ok.inj hdec
    obtain ⟨-, rfl⟩ | ⟨-, rfl⟩ := Machine.execLit_next hexec
    · exact ⟨rfl, Machine.setToken_runlen .., Machine.setToken_runval ..⟩
    · exact absurd (Machine.raise_status ..) hok

end Sys2Proof
end

section
/-! PROOFS. Fetching a token (spec 41_rle_stream.md): what LIT answers (R151), and what `issue` runs from the bytes a
place holds (R153). -/

namespace Sys2Proof.Machine

/-- LIT never stops the machine: at or beyond LEN it raises, below it the one-byte token is active (R151, R153). -/
theorem execLit_eq (v : Byte) (s : State) :
    exec (.lit v) s =
      .next (if s.len ≤ s.cur then raise .truncatedStream 0#16 s else setToken 1#6 v 1 s) := by
  simp only [exec, execLit]
  split <;> rfl

/-- When the bytes of a place decode, `issue` runs the instruction. -/
theorem issue_of_decode_ok {slot : Slot} {s : State} {bs rest : List Byte} {i : Instr}
    (hfetch : fetchBytes slot s = .ok bs) (hdec : decode slot bs = .ok i rest) : issue slot s = exec i s := by
  simp [issue, hfetch, hdec]

/-- When the bytes of a place do not decode, `issue` raises the error the decoder names (R210). -/
theorem issue_of_decode_bad {slot : Slot} {s : State} {bs : List Byte} {e : DecodeError}
    (hfetch : fetchBytes slot s = .ok bs) (hdec : decode slot bs = .bad e) :
    issue slot s = .next (raise (raisedKind e) (raisedInfo e) s) := by
  simp [issue, hfetch, hdec]

/-- At or beyond LEN a token fetch reads nothing (R153). -/
theorem fetchBytes_token_past_end {s : State} (hend : s.len ≤ s.cur) : fetchBytes .token s = .ok [] := by
  simp [fetchBytes, hend]

/-- A byte at CUR that is no control byte is all a token fetch reads (R91, R153). -/
theorem fetchBytes_token_of_not_isRun {s : State} {c : Byte} (hcur : s.cur < s.len)
    (hread : s.input.read s.cur = some c) (hlit : isRun c = false) : fetchBytes .token s = .ok [c] := by
  simp [fetchBytes, Nat.not_le.mpr hcur, memRead1_of_read hcur hread, hlit]

/-- R153: a token fetch at or beyond LEN raises TruncatedStream. -/
theorem issue_token_past_end {s : State} (hend : s.len ≤ s.cur) :
    issue .token s = .next (raise .truncatedStream 0#16 s) :=
  issue_of_decode_bad (e := .noTokenByte) (fetchBytes_token_past_end hend) rfl

/-- R151: a byte at CUR that is no control byte is run as the LIT of it. -/
theorem issue_token_of_not_isRun {s : State} {c : Byte} (hcur : s.cur < s.len)
    (hread : s.input.read s.cur = some c) (hlit : isRun c = false) : issue .token s = exec (.lit c) s :=
  issue_of_decode_ok (fetchBytes_token_of_not_isRun hcur hread hlit) (decode_token_of_not_isRun hlit [])

/-- Settles O11: CUR against LEN decides what LIT answers; at or beyond LEN the fetch raises as LIT does, and below it
a byte that is no control byte is fetched as its LIT. -/
theorem litLoadsOneByte : Obligations.LitLoadsOneByte := by
  intro v s
  refine ⟨fun hcur => ?_, fun hend => ?_, issue_token_of_not_isRun⟩
  · rw [execLit_eq, if_neg (Nat.not_le.mpr hcur)]
    rfl
  · have hraise : exec (.lit v) s = .next (raise .truncatedStream 0#16 s) := by rw [execLit_eq, if_pos hend]
    exact ⟨hraise, (issue_token_past_end hend).trans hraise.symm⟩

end Sys2Proof.Machine
end

section
/-! PROOFS. The sinks (spec 42_pixel_palette.md): which bytes of PIX a decoded byte writes (R181, R182), and that a
byte whose columns all lie beyond the image writes nothing and still counts (R187). -/

namespace Sys2Proof.Machine

section Sinks

variable {s : State} {m : Memory} {v w : Byte}

/-! ### Columns, PIX and sequences -/

theorem inImage_eq_true_iff {x : Nat} : inImage s x = true ↔ (x : Int) < s.width := by
  simp [inImage]

theorem inImage_eq_false_iff {x : Nat} : inImage s x = false ↔ s.width ≤ x := by
  simp [inImage]

/-- While PIX exists, its bytes are those of its memory. -/
theorem pixByte_of_pix_some (h : s.pix = some m) (a : Nat) : pixByte s a = m.read a := by
  simp [pixByte, h]

/-- Two continuations that agree on the next state a part answers make one sequence. -/
theorem andThen_congr {o : Result} {k l : State → Result} (h : ∀ t, o = .next t → k t = l t) :
    andThen o k = andThen o l := by
  cases o with
  | next t => exact h t rfl
  | fault r => rfl
  | refused r => rfl

/-! ### The sink of each mode (R180) -/

theorem sink_of_idx8 (h : s.mode = .idx8) : sink v s = sinkIdx8 v s := by simp [sink, h]
theorem sink_of_rgb24 (h : s.mode = .rgb24) : sink v s = sinkRgb24 v s := by simp [sink, h]
theorem sink_of_bp1 (h : s.mode = .bp1) : sink v s = sinkBp1 v s := by simp [sink, h]

/-- The eight columns of SINK.BP1 are those from 0 to 7 (R183). -/
theorem sinkBp1_eq_range : sinkBp1 v s = sinkBp1Columns v (List.range 8) s := rfl

/-! ### Padding (R187) -/

theorem sinkIdx8_of_padding (h : s.width ≤ s.bcnt.toNat) : sinkIdx8 v s = .next s := by
  simp [sinkIdx8, inImage_eq_false_iff.mpr h]

theorem sinkRgb24_of_padding (h : s.width ≤ s.bcnt.toNat) : sinkRgb24 v s = .next s := by
  simp [sinkRgb24, inImage_eq_false_iff.mpr h]

theorem sinkBp1Column_of_padding {i : Nat} (h : s.width ≤ bp1Column s.bcnt i) : sinkBp1Column v i s = .next s := by
  simp [sinkBp1Column, inImage_eq_false_iff.mpr h]

/-- When the leftmost column of a 1-bit-mode byte is padding, so is every other. -/
theorem sinkBp1Columns_of_padding (h : s.width ≤ (8 * s.bcnt.toNat : Nat)) (is : List Nat) :
    sinkBp1Columns v is s = .next s := by
  induction is with
  | nil => rfl
  | cons i is ih =>
    have hcol : s.width ≤ bp1Column s.bcnt i := by unfold bp1Column; omega
    rw [sinkBp1Columns, sinkBp1Column_of_padding hcol, andThen_next, ih]

/-- The leftmost column the byte at BCNT covers: in BP1 a byte covers eight columns, else one (R181 to R183). -/
def firstColumn (s : State) : Nat :=
  match s.mode with
  | .bp1 => 8 * s.bcnt.toNat
  | _ => s.bcnt.toNat

/-- R187: a byte whose columns all lie at or beyond WIDTH leaves the whole state as it is. -/
theorem sink_of_padding (hmode : s.mode ≠ .none) (h : s.width ≤ firstColumn s) : sink v s = .next s := by
  cases hm : s.mode with
  | none => exact absurd hm hmode
  | idx8 => rw [sink_of_idx8 hm, sinkIdx8_of_padding (by simpa [firstColumn, hm] using h)]
  | rgb24 => rw [sink_of_rgb24 hm, sinkRgb24_of_padding (by simpa [firstColumn, hm] using h)]
  | bp1 => rw [sink_of_bp1 hm, sinkBp1, sinkBp1Columns_of_padding (by simpa [firstColumn, hm] using h)]

/-- R187: a delivered padding byte still counts. -/
theorem deliver_of_padding (hmode : s.mode ≠ .none) (h : s.width ≤ firstColumn s) :
    deliver s = .next (advance (takeByte s)) := by
  have hsink : sink s.runval (takeByte s) = .next (takeByte s) := sink_of_padding hmode h
  rw [deliver, hsink, andThen_next]

/-- With a run active a byte-step is the delivery of one byte (R154). -/
theorem byteStep_of_active (hstatus : s.status = .decode) (hrun : s.runlen ≠ 0#6) : byteStep s = deliver s := by
  rw [byteStep, fetchRun_active _ hrun, andThen_next, if_pos hstatus]

/-- With no move of the host placed, a step in DECODE is a byte-step (R154, R253). -/
theorem step_of_decode (halone : s.host = []) (hstatus : s.status = .decode) : step s = byteStep s := by
  rw [step_of_alone halone]
  simp [blockStep, hstatus]

/-! ### The bits of the columns of the image (R183, R187) -/

/-- A column of SINK.BP1 that goes on keeps the place of the byte and the width of the image. -/
theorem sinkBp1Column_keeps {t : State} {i : Nat} (h : sinkBp1Column v i s = .next t) :
    t.bcnt = s.bcnt ∧ t.width = s.width := by
  obtain ⟨-, rfl⟩ | ⟨-, -, rfl⟩ | ⟨-, -, _, -, -, rfl⟩ := sinkBp1Column_next h <;> exact ⟨rfl, rfl⟩

/-- A column depends on its bit of the byte only, and on that only inside the image. -/
theorem sinkBp1Column_congr {i : Nat} (h : (bp1Column s.bcnt i : Int) < s.width →
    columnBit Config.bitOrder v i = columnBit Config.bitOrder w i) : sinkBp1Column v i s = sinkBp1Column w i s := by
  by_cases hcol : (bp1Column s.bcnt i : Int) < s.width
  · simp only [sinkBp1Column, h hcol]
  · rw [sinkBp1Column_of_padding (not_lt.mp hcol), sinkBp1Column_of_padding (not_lt.mp hcol)]

/-- Bytes that agree on the columns of the image are one to SINK.BP1. -/
theorem sinkBp1Columns_congr {is : List Nat} (h : ∀ i ∈ is, (bp1Column s.bcnt i : Int) < s.width →
    columnBit Config.bitOrder v i = columnBit Config.bitOrder w i) : sinkBp1Columns v is s = sinkBp1Columns w is s := by
  induction is generalizing s with
  | nil => rfl
  | cons i is ih =>
    obtain ⟨hhead, htail⟩ := List.forall_mem_cons.mp h
    rw [sinkBp1Columns, sinkBp1Columns, sinkBp1Column_congr hhead]
    refine andThen_congr fun t ht => ih ?_
    obtain ⟨hbcnt, hwidth⟩ := sinkBp1Column_keeps ht
    rwa [hbcnt, hwidth]

/-! ### Writing PIX (R181, R182, R188) -/

/-- R181: a byte at a column of the image writes the pixel there. -/
theorem sinkIdx8_of_inImage (hpix : s.pix = some m) (hcol : (s.bcnt.toNat : Int) < s.width)
    (hrow : (s.row.toNat : Int) < s.height) :
    sinkIdx8 v s = .next { s with pix := some (pixelWritten m (pixAddr s s.bcnt.toNat) s.pal v) } := by
  rw [sinkIdx8, if_pos (inImage_eq_true_iff.mpr hcol), writePixel_ok v hpix (pixAddr_inside hcol hrow)]

/-- The memory after one channel of the pixel at `a` is written: the last plane's byte brings the alpha byte with it
(R182, R188). -/
def channelWritten (m : Memory) (a : Nat) (plane : BitVec 3) (v : Byte) : Memory :=
  if plane = 2#3 then (m.write (a + plane.toNat) v).write (a + 3) Config.alpha else m.write (a + plane.toNat) v

/-- The bytes of PIX after a channel is written. -/
theorem channelWritten_read (m : Memory) (a : Nat) (plane : BitVec 3) (v : Byte) (k : Nat) :
    (channelWritten m a plane v).read k =
      if k = a + plane.toNat then some v
      else if k = a + 3 ∧ plane.toNat = 2 then some Config.alpha
      else m.read k := by
  by_cases hp : plane = 2#3
  · subst hp
    by_cases hk : k = a + 3 <;> simp [channelWritten, Memory.read_write, hk]
  · have hne : plane.toNat ≠ 2 := fun h => hp (BitVec.eq_of_toNat_eq h)
    simp only [channelWritten, if_neg hp, Memory.read_write, hne, and_false, if_false]

/-- R182: a byte at a column of the image writes the channel of its plane there. -/
theorem sinkRgb24_of_inImage (hpix : s.pix = some m) (hcol : (s.bcnt.toNat : Int) < s.width)
    (hrow : (s.row.toNat : Int) < s.height) (hpln : s.pln.toNat ≤ 2) :
    sinkRgb24 v s = .next { s with pix := some (channelWritten m (pixAddr s s.bcnt.toNat) s.pln v) } := by
  have hinside := pixAddr_inside hcol hrow
  rw [sinkRgb24, if_pos (inImage_eq_true_iff.mpr hcol), memWrite_ok v hpix (by omega), andThen_next]
  by_cases hp : s.pln = 2#3
  · rw [if_pos hp, memWrite_ok _ rfl (by exact hinside), channelWritten, if_pos hp]
  · rw [if_neg hp, channelWritten, if_neg hp]

end Sinks

/-! ### The obligations -/

/-- Settles O25: beyond WIDTH the byte is padding; else the pixel at BCNT is written whole. -/
theorem idx8SinkWritesOnePixel : Obligations.Idx8SinkWritesOnePixel := by
  intro s v m hmode hpix
  rw [sink_of_idx8 hmode]
  refine ⟨sinkIdx8_of_padding, fun hcol hrow => ⟨_, sinkIdx8_of_inImage hpix hcol hrow, rfl, fun a => ?_⟩⟩
  rw [pixByte_of_pix_some rfl, pixelWritten_read, pixByte_of_pix_some hpix, Config.alpha]

/-- Settles O26: beyond WIDTH the byte is padding; else the channel of plane PLN is written, with plane 2 alpha too. -/
theorem rgb24SinkWritesOneChannel : Obligations.Rgb24SinkWritesOneChannel := by
  intro s v m hmode hpix
  rw [sink_of_rgb24 hmode]
  refine ⟨sinkRgb24_of_padding, fun hcol hrow hpln => ⟨_, sinkRgb24_of_inImage hpix hcol hrow hpln, rfl, fun a => ?_⟩⟩
  rw [pixByte_of_pix_some rfl, channelWritten_read, pixByte_of_pix_some hpix, Config.alpha]

/-- Settles O28: a padding byte is dropped in every mode, also after the byte-step has taken it from RUNLEN; in BP1 the
two bytes give every column of the image the same bit. -/
theorem paddingIsDroppedAndCounted : Obligations.PaddingIsDroppedAndCounted := by
  refine fun s v => ⟨fun hmode hpad => ⟨sink_of_padding hmode hpad, fun halone hstatus hrun => ?_⟩,
    fun w hbp1 hbits => ?_⟩
  · rw [step_of_decode halone hstatus, byteStep_of_active hstatus hrun, deliver_of_padding hmode hpad]
    rfl
  · rw [sink_of_bp1 hbp1, sink_of_bp1 hbp1, sinkBp1_eq_range, sinkBp1_eq_range]
    exact sinkBp1Columns_congr fun i hi => hbits i (List.mem_range.mp hi)

end Sys2Proof.Machine
end

section
/-! PROOFS. The quiescent phases (spec 60_exceptions.md R229): the block stays, a state whose step is itself stays over
every number of steps, and a move of the host but START and reset writes LEN or IN at most. -/

namespace Sys2Proof.Machine

/-- IDLE, DONE and ERROR are the phases that are not busy (R27). -/
theorem busy_eq_false_iff {s : State} : busy s = false ↔ s.status = .idle ∨ s.status = .done ∨ s.status = .error := by
  cases h : s.status <;> simp [busy, Phase.busy, h]

/-- A block that is not busy takes no step (R229). -/
theorem blockStep_of_not_busy {s : State} (h : busy s = false) : blockStep s = .next s := by
  obtain hidle | hdone | herror := busy_eq_false_iff.mp h
  · simp [blockStep, hidle]
  · simp [blockStep, hdone]
  · exact blockStep_of_error herror

/-- A state that steps to itself stays over any number of steps. -/
theorem run_of_step_self {s : State} (h : step s = .next s) (k : Nat) : core.run k s = .next s := by
  induction k with
  | zero => rfl
  | succ k ih => simpa [Host.Core.run, core, h] using ih

/-- While the block is not busy, a move of the host but START and reset is taken, and writes LEN and IN at most (R229,
R264). -/
theorem hostMove_of_not_busy {s : State} {m : HostMove} (hbusy : busy s = false) (hstart : m ≠ .start)
    (hreset : m ≠ .reset) : ∃ t, hostMove m s = .next t ∧ t = { s with len := t.len, input := t.input } := by
  cases m with
  | block => exact ⟨s, blockStep_of_not_busy hbusy, rfl⟩
  | writeIn a b => exact ⟨loadByte a b s, by simp [hostMove, hbusy], rfl⟩
  | writeLen n => exact ⟨setLen n s, by simp [hostMove, hbusy], rfl⟩
  | start => exact absurd rfl hstart
  | reset => exact absurd rfl hreset

/-- Settles O38: with no move placed the state steps to itself; a move other than START and reset is taken by the same
state with the rest of the schedule. -/
theorem quiescentPhasesKeepAllState : Obligations.QuiescentPhasesKeepAllState := by
  intro s hquiescent
  have hbusy : busy s = false := busy_eq_false_iff.mpr hquiescent
  refine ⟨fun halone => ?_, fun m rest hmove hstart hreset => ?_⟩
  · exact run_of_step_self (by rw [step_of_alone halone, blockStep_of_not_busy hbusy])
  · have hbusy' : busy (setHost rest s) = false := hbusy
    rw [step_of_move hmove]
    exact hostMove_of_not_busy hbusy' hstart hreset

end Sys2Proof.Machine
end

section
/-! PROOFS. Two answers side by side: what relates two next states, through the operations that put outcomes in
sequence. -/

namespace Sys2Proof.Machine

/-- Both answers are next states and related, or both are the same stop. -/
inductive Both (R : State → State → Prop) : Result → Result → Prop where
  | next {s u : State} (h : R s u) : Both R (.next s) (.next u)
  | fault (r : Fault) : Both R (.fault r) (.fault r)
  | refused (r : Refusal) : Both R (.refused r) (.refused r)

section Both

variable {R Q : State → State → Prop} {o p : Result}

/-- Related answers stay related under continuations that relate what follows from related next states. -/
theorem Both.andThen {k l : State → Result} (h : Both R o p)
    (hkl : ∀ s u, o = .next s → R s u → Both Q (k s) (l u)) : Both Q (andThen o k) (andThen p l) := by
  cases h with
  | next h => exact hkl _ _ rfl h
  | fault r => exact .fault r
  | refused r => exact .refused r

theorem Both.withRead {α : Type} {r : Except Fault α} {k l : α → Result} (hkl : ∀ a, Both Q (k a) (l a)) :
    Both Q (withRead r k) (withRead r l) := by
  cases r with
  | ok a => exact hkl a
  | error f => exact .fault f

theorem Both.ite {c : Prop} [Decidable c] {o' p' : Result} (hpos : c → Both R o p) (hneg : ¬c → Both R o' p') :
    Both R (if c then o else o') (if c then p else p') := by
  split
  · exact hpos ‹_›
  · exact hneg ‹_›

/-- When one answer is a next state, so is the other, and the two are related. -/
theorem Both.next_of_next {s : State} (h : Both R o p) (ho : o = .next s) : ∃ u, p = .next u ∧ R s u := by
  subst ho
  cases h with
  | next h => exact ⟨_, rfl, h⟩

end Both

end Sys2Proof.Machine
end

section
/-! PROOFS. Noninterference (spec 70_reset_and_hazards.md R254): which registers two runs of one input share in each
phase, and that every step of the block keeps them shared. -/

namespace Sys2Proof.Machine

/-! ### What the input decides in each phase -/

/-- What START leaves to LEN and IN alone (R120), with no move of the host placed. -/
structure SameLaunch (s u : State) : Prop where
  len : s.len = u.len
  input : s.input = u.input
  mode : s.mode = u.mode
  status : s.status = u.status
  err : s.err = u.err
  errinfo : s.errinfo = u.errinfo
  pix : s.pix = u.pix
  alone : s.host = [] ∧ u.host = []

/-- What LEN and IN decide once the header is accepted (R123, R124). -/
structure SameConfig (s u : State) : Prop extends SameLaunch s u where
  hdr : s.hdr = u.hdr
  width : s.width = u.width
  height : s.height = u.height

/-- The palette indices a mode looks up: every byte in IDX8 mode, four bits in BP1 mode, none in RGB24 mode (R181 to
R183). -/
def LooksUp (mode : Mode) (idx : Byte) : Prop := mode = .idx8 ∨ mode = .bp1 ∧ idx.toNat < 16

/-- What LEN and IN decide from DECODE.INIT on (R150). RUNVAL counts while a run is active, the accumulators in BP1
mode, and of PAL the entries the mode looks up; the rest of them the START left unspecified. -/
structure SameStream (s u : State) : Prop extends SameConfig s u where
  runlen : s.runlen = u.runlen
  runval : s.runlen ≠ 0#6 → s.runval = u.runval
  bcnt : s.bcnt = u.bcnt
  pln : s.pln = u.pln
  row : s.row = u.row
  cur : s.cur = u.cur
  acc : s.mode = .bp1 → s.acc = u.acc
  pal : ∀ idx, LooksUp s.mode idx → ∀ c, palColour s.pal idx c = palColour u.pal idx c

/-- Two runs of one input in one phase share what the input has decided by then. -/
structure SameRun (s u : State) : Prop where
  launch : SameLaunch s u
  config : s.status.accepted = true → SameConfig s u
  stream : s.status = .decode → SameStream s u

section

variable {s u : State}

theorem SameLaunch.sameRun (h : SameLaunch s u) (hstatus : s.status.accepted = false) : SameRun s u where
  launch := h
  config := fun haccepted => absurd haccepted (by simp [hstatus])
  stream := fun hdecode => absurd hstatus (by simp [hdecode, Phase.accepted])

theorem SameConfig.sameRun (h : SameConfig s u) (hstatus : s.status ≠ .decode) : SameRun s u where
  launch := h.toSameLaunch
  config := fun _ => h
  stream := fun hdecode => absurd hdecode hstatus

theorem SameStream.sameRun (h : SameStream s u) : SameRun s u where
  launch := h.toSameLaunch
  config := fun _ => h.toSameConfig
  stream := fun _ => h

/-- DONE is a phase in which the header has been accepted. -/
theorem SameRun.config_of_done (h : SameRun s u) (hdone : s.status = .done) : SameConfig s u :=
  h.config (by simp [hdone, Phase.accepted])

/-- R10: a raise of one error is one outcome. -/
theorem SameLaunch.sameRun_raise (h : SameLaunch s u) (e : Err) (info : BitVec 16) :
    SameRun (raise e info s) (raise e info u) :=
  SameLaunch.sameRun { h with err := rfl, errinfo := rfl, status := rfl, pix := rfl } rfl

/-! ### Reading IN -/

theorem SameLaunch.memRead1_eq (h : SameLaunch s u) (a : Nat) : memRead1 s a = memRead1 u a := by
  simp only [memRead1, h.len, h.input]

theorem SameLaunch.memRead2_eq (h : SameLaunch s u) (a : Nat) : memRead2 s a = memRead2 u a := by
  simp only [memRead2, h.memRead1_eq]

/-- A run of reads looks at LEN and IN only, so the rest of the state may be that of reset. -/
theorem SameLaunch.readBytes_eq (h : SameLaunch s u) (a n : Nat) : readBytes s a n = readBytes u a n :=
  calc readBytes s a n
    _ = readBytes { State.reset with len := s.len, input := s.input } a n := rfl
    _ = readBytes { State.reset with len := u.len, input := u.input } a n := by rw [h.len, h.input]
    _ = readBytes u a n := rfl

theorem SameLaunch.readHeader_eq (h : SameLaunch s u) : readHeader s = readHeader u := by
  simp only [readHeader, h.memRead1_eq, h.memRead2_eq, h.readBytes_eq]

theorem SameLaunch.fetchMagic_eq (h : SameLaunch s u) : fetchBytes .magic s = fetchBytes .magic u := by
  simp only [fetchBytes, h.len, h.memRead1_eq]

theorem SameLaunch.fetchMarker_eq (h : SameLaunch s u) : fetchBytes .marker s = fetchBytes .marker u := by
  simp only [fetchBytes, h.len, h.memRead1_eq]

theorem SameConfig.fetchKey_eq (h : SameConfig s u) : fetchBytes .key s = fetchBytes .key u := by
  simp only [fetchBytes, h.hdr]

theorem SameStream.fetchToken_eq (h : SameStream s u) : fetchBytes .token s = fetchBytes .token u := by
  simp only [fetchBytes, h.len, h.cur, h.memRead1_eq]

/-- The bytes of a place decode to an instruction of that place. -/
theorem slot_of_decode_ok {slot : Slot} {bs rest : List Byte} {i : Instr} (h : decode slot bs = .ok i rest) :
    i.slot = slot := by
  cases slot with
  | token => simp only [decode, decodeToken] at h; grind [Instr.slot]
  | magic => simp only [decode, decodeMagic] at h; grind [Instr.slot]
  | key => simp only [decode, decodeKey] at h; grind [Instr.slot]
  | marker => simp only [decode, decodeMarker] at h; grind [Instr.slot]

/-- Two runs that fetch the same bytes at a place keep together over the step there, when they do over each
instruction of the place. -/
theorem SameLaunch.both_issue {slot : Slot} (h : SameLaunch s u) (hfetch : fetchBytes slot s = fetchBytes slot u)
    (hexec : ∀ i : Instr, i.slot = slot → Both SameRun (exec i s) (exec i u)) :
    Both SameRun (issue slot s) (issue slot u) := by
  unfold issue
  rw [hfetch]
  refine Both.withRead fun bs => ?_
  cases hdec : decode slot bs with
  | ok i rest => exact hexec i (slot_of_decode_ok hdec)
  | bad e => exact .next (h.sameRun_raise _ _)

/-! ### The configuration -/

/-- R122 to R125: the header load gives both runs the header of IN. -/
theorem SameLaunch.both_loadHeader (h : SameLaunch s u) : Both SameRun (loadHeader s) (loadHeader u) := by
  unfold loadHeader
  rw [h.readHeader_eq]
  refine Both.withRead fun hd => ?_
  have hloaded : SameConfig (setDims (dimension hd.xmin hd.xmax) (dimension hd.ymin hd.ymax) (setHeader hd s))
      (setDims (dimension hd.xmin hd.xmax) (dimension hd.ymin hd.ymax) (setHeader hd u)) :=
    { h with hdr := rfl, width := rfl, height := rfl }
  refine Both.ite (fun _ => .next (hloaded.sameRun_raise _ _)) fun _ => Both.ite (fun _ => .next ?_) fun _ => .refused _
  exact SameConfig.sameRun { hloaded with pix := rfl, status := rfl } (by simp)

theorem SameLaunch.both_issue_magic (h : SameLaunch s u) : Both SameRun (issue .magic s) (issue .magic u) := by
  refine h.both_issue h.fetchMagic_eq fun i hslot => ?_
  cases i with
  | magic =>
    simp only [exec, execMagic, h.len]
    exact Both.ite (fun _ => .next (h.sameRun_raise _ _)) fun _ => h.both_loadHeader
  | _ => cases hslot

theorem SameConfig.sameRun_selectMode (h : SameConfig s u) (m : Mode) : SameRun (selectMode m s) (selectMode m u) :=
  SameConfig.sameRun { h with mode := rfl, status := rfl } (by simp)

theorem SameConfig.both_issue_key (h : SameConfig s u) : Both SameRun (issue .key s) (issue .key u) := by
  refine h.both_issue h.fetchKey_eq fun i hslot => ?_
  cases i with
  | modeIdx8 => exact .next (h.sameRun_selectMode .idx8)
  | modeRgb24 => exact .next (h.sameRun_selectMode .rgb24)
  | modeBp1 planes => exact .next (h.sameRun_selectMode .bp1)
  | _ => cases hslot

/-- R150: DECODE.INIT writes every register of the stream but RUNVAL, which no active run holds yet. -/
theorem SameConfig.sameRun_decodeInit (h : SameConfig s u)
    (hpal : ∀ idx, LooksUp s.mode idx → ∀ c, palColour s.pal idx c = palColour u.pal idx c) :
    SameRun (decodeInit s) (decodeInit u) :=
  SameStream.sameRun { h with
    status := by simp [h.hdr]
    runlen := rfl
    runval := fun hrun => absurd (decodeInit_runlen s) hrun
    bcnt := rfl, pln := rfl, row := rfl, cur := rfl
    acc := fun hbp1 => by
      have hs : s.mode = .bp1 := hbp1
      simp [← h.mode, hs, h.width]
    pal := hpal }

theorem SameConfig.sameConfig_setPal (h : SameConfig s u) (p q : Vector Byte 768) :
    SameConfig (setPal p s) (setPal q u) :=
  { h with }

theorem SameConfig.both_issue_marker (h : SameConfig s u) : Both SameRun (issue .marker s) (issue .marker u) := by
  refine h.both_issue h.fetchMarker_eq fun i hslot => ?_
  cases i with
  | palmark =>
    simp only [exec, execPalmark, h.len, h.readBytes_eq]
    refine Both.ite (fun _ => .next (h.sameRun_raise _ _)) fun _ => Both.withRead fun p => .next ?_
    exact (h.sameConfig_setPal p p).sameRun_decodeInit fun _ _ _ => rfl
  | _ => cases hslot

/-- R129: the sixteen entries BP1 mode looks up are those of HPAL. -/
theorem palColour_bp1Palette (hpal : Vector Byte 48) (pal : Vector Byte 768) {idx : Byte} (hidx : idx.toNat < 16)
    (c : Fin 3) : palColour (bp1Palette hpal pal) idx c = hpal[3 * idx.toNat + c.val] := by
  have hlt : 3 * idx.toNat + c.val < 48 := by omega
  simp [palColour, bp1Palette, hlt]

/-- R127 to R130: whatever PAL held, the mode looks up entries of the file only. -/
theorem SameConfig.both_palloadStep (h : SameConfig s u) : Both SameRun (palloadStep s) (palloadStep u) := by
  unfold palloadStep
  rw [← h.mode]
  cases hmode : s.mode with
  | none => exact .fault _
  | idx8 => exact h.both_issue_marker
  | rgb24 => exact .next (h.sameRun_decodeInit fun idx hidx => by simp [LooksUp, hmode] at hidx)
  | bp1 =>
    refine .next ((h.sameConfig_setPal _ _).sameRun_decodeInit fun idx hidx c => ?_)
    have hlow : idx.toNat < 16 := by simpa [LooksUp, hmode] using hidx
    rw [setPal_pal, setPal_pal, palColour_bp1Palette _ _ hlow, palColour_bp1Palette _ _ hlow, h.hdr]

/-! ### The sinks -/

theorem SameStream.both_memWrite (h : SameStream s u) (a : Nat) (b : Byte) :
    Both SameStream (memWrite a b s) (memWrite a b u) := by
  have hsize : pixSize s = pixSize u := by simp only [pixSize, h.width, h.height]
  unfold memWrite
  rw [← h.pix, hsize]
  cases s.pix with
  | none => exact .fault _
  | some m => exact Both.ite (fun _ => .next { h with pix := rfl }) fun _ => .fault _

theorem SameStream.pixAddr_eq (h : SameStream s u) (x : Nat) : pixAddr s x = pixAddr u x := by
  simp only [pixAddr, h.row, h.width]

theorem SameStream.inImage_eq (h : SameStream s u) (x : Nat) : inImage s x = inImage u x := by
  simp only [inImage, h.width]

theorem SameStream.both_writePixel (h : SameStream s u) (x : Nat) {idx : Byte} (hidx : LooksUp s.mode idx) :
    Both SameStream (writePixel x idx s) (writePixel x idx u) := by
  simp only [writePixel, h.pixAddr_eq, h.pal idx hidx]
  exact (h.both_memWrite _ _).andThen fun _ _ _ h1 => (h1.both_memWrite _ _).andThen fun _ _ _ h2 =>
    (h2.both_memWrite _ _).andThen fun _ _ _ h3 => h3.both_memWrite _ _

theorem SameStream.both_sinkIdx8 (h : SameStream s u) (hmode : s.mode = .idx8) (v : Byte) :
    Both SameStream (sinkIdx8 v s) (sinkIdx8 v u) := by
  simp only [sinkIdx8, h.inImage_eq, h.bcnt]
  exact Both.ite (fun _ => h.both_writePixel _ (.inl hmode)) fun _ => .next h

theorem SameStream.both_sinkRgb24 (h : SameStream s u) (v : Byte) :
    Both SameStream (sinkRgb24 v s) (sinkRgb24 v u) := by
  simp only [sinkRgb24, h.inImage_eq, h.pixAddr_eq, h.bcnt, h.pln]
  refine Both.ite (fun _ => (h.both_memWrite _ _).andThen fun s1 u1 _ h1 => ?_) fun _ => .next h
  exact Both.ite (fun _ => h1.both_memWrite _ _) fun _ => .next h1

/-- An accumulator has four bits, so the index it stands for is looked up below 16 (R43, R183). -/
theorem accIndex_lt (acc : List (BitVec 4)) (x : Nat) : (accIndex acc x).toNat < 16 := by
  have hfour := (accAt acc x).isLt
  rw [accIndex, BitVec.toNat_setWidth]
  omega

theorem SameStream.both_sinkBp1Column (h : SameStream s u) (hmode : s.mode = .bp1) (v : Byte) (i : Nat) :
    Both SameStream (sinkBp1Column v i s) (sinkBp1Column v i u) := by
  have hlast : lastPlane s = lastPlane u := by simp only [lastPlane, h.pln, h.hdr]
  have hset (acc : List (BitVec 4)) : SameStream (setAcc acc s) (setAcc acc u) := { h with acc := fun _ => rfl }
  simp only [sinkBp1Column, h.inImage_eq, h.bcnt, h.pln, h.acc hmode, hlast, setAcc_acc]
  refine Both.ite (fun _ => Both.ite (fun _ => ?_) fun _ => .next (hset _)) fun _ => .next h
  exact (hset _).both_writePixel _ (.inr ⟨hmode, accIndex_lt _ _⟩)

/-- A column of SINK.BP1 keeps MODE. -/
theorem sinkBp1Column_mode {v : Byte} {i : Nat} {t : State} (h : sinkBp1Column v i s = .next t) :
    t.mode = s.mode := by
  obtain ⟨-, rfl⟩ | ⟨-, -, rfl⟩ | ⟨-, -, _, -, -, rfl⟩ := sinkBp1Column_next h <;> rfl

theorem SameStream.both_sinkBp1Columns (h : SameStream s u) (hmode : s.mode = .bp1) (v : Byte) (is : List Nat) :
    Both SameStream (sinkBp1Columns v is s) (sinkBp1Columns v is u) := by
  induction is generalizing s u with
  | nil => exact .next h
  | cons i is ih =>
    refine (h.both_sinkBp1Column hmode v i).andThen fun s1 u1 hs1 h1 => ih h1 ?_
    rwa [sinkBp1Column_mode hs1]

theorem SameStream.both_sink (h : SameStream s u) (v : Byte) : Both SameStream (sink v s) (sink v u) := by
  unfold sink
  rw [← h.mode]
  cases hmode : s.mode with
  | none => exact .fault _
  | idx8 => exact h.both_sinkIdx8 hmode v
  | rgb24 => exact h.both_sinkRgb24 v
  | bp1 => exact h.both_sinkBp1Columns hmode v _

/-! ### The byte-step -/

/-- R155: the advance moves both runs to the same position. -/
theorem SameStream.sameStream_advance (h : SameStream s u) : SameStream (advance s) (advance u) := by
  by_cases hplane : s.bcnt.toNat + 1 = s.hdr.bpl.toNat
  · have hplane' : u.bcnt.toNat + 1 = u.hdr.bpl.toNat := by rwa [← h.bcnt, ← h.hdr]
    by_cases hrow : s.pln.toNat + 1 = s.hdr.nplanes.toNat
    · rw [advance_nextRow s hplane hrow, advance_nextRow u hplane' (by rwa [← h.pln, ← h.hdr])]
      exact { h with
        bcnt := rfl, pln := rfl
        row := by simp only [h.row]
        acc := fun hbp1 => by simp only [h.acc hbp1, h.mode, h.row, h.height, h.width]
        status := by simp only [h.row, h.height, h.status] }
    · rw [advance_nextPlane s hplane hrow, advance_nextPlane u hplane' (by rwa [← h.pln, ← h.hdr])]
      exact { h with bcnt := rfl, pln := by simp only [h.pln] }
  · rw [advance_inPlane s hplane, advance_inPlane u (by rwa [← h.bcnt, ← h.hdr])]
    exact { h with bcnt := by simp only [h.bcnt] }

/-- R154: the byte of an active run is the same byte in both runs. -/
theorem SameStream.both_deliver (h : SameStream s u) (hrun : s.runlen ≠ 0#6) :
    Both SameRun (deliver s) (deliver u) := by
  have htake : SameStream (takeByte s) (takeByte u) :=
    { h with runlen := by simp only [takeByte_runlen, h.runlen], runval := fun _ => h.runval hrun }
  unfold deliver
  rw [← h.runval hrun]
  exact (htake.both_sink _).andThen fun _ _ _ h1 => .next h1.sameStream_advance.sameRun

theorem SameStream.sameRun_setToken (h : SameStream s u) (n : BitVec 6) (v : Byte) (size : Nat) :
    SameRun (setToken n v size s) (setToken n v size u) :=
  SameStream.sameRun { h with
    runlen := rfl
    runval := fun _ => rfl
    cur := by simp only [setToken_cur, h.cur] }

theorem SameStream.both_issue_token (h : SameStream s u) : Both SameRun (issue .token s) (issue .token u) := by
  refine h.both_issue h.fetchToken_eq fun i hslot => ?_
  cases i with
  | lit v =>
    simp only [exec, execLit, h.len, h.cur]
    exact Both.ite (fun _ => .next (h.sameRun_raise _ _)) fun _ => .next (h.sameRun_setToken _ _ _)
  | run n v =>
    simp only [exec, execRun, runToken, Config.zeroRun, h.len, h.cur]
    exact Both.ite (fun _ => .next (h.sameRun_raise _ _)) fun _ => .next (h.sameRun_setToken _ _ _)
  | _ => cases hslot

theorem SameStream.both_fetchRun (h : SameStream s u) (k : Nat) : Both SameRun (fetchRun k s) (fetchRun k u) := by
  induction k generalizing s u with
  | zero =>
    simp only [fetchRun, h.runlen]
    exact Both.ite (fun _ => .next (h.sameRun_raise _ _)) fun _ => .next h.sameRun
  | succ k ih =>
    simp only [fetchRun, h.runlen]
    refine Both.ite (fun _ => h.both_issue_token.andThen fun s1 u1 _ h1 => ?_) fun _ => .next h.sameRun
    rw [h1.launch.status]
    exact Both.ite (fun hdecode => ih (h1.stream (h1.launch.status.trans hdecode))) fun _ => .next h1

/-- A fetch loop that ends in DECODE has made a run active (R154). -/
theorem fetchRun_runlen {k : Nat} {t : State} (hs : s.status = .decode) (h : fetchRun k s = .next t)
    (ht : t.status = .decode) : t.runlen ≠ 0#6 := by
  obtain ⟨n, v, c, -, -, ⟨hn, rfl⟩ | rfl⟩ := fetchRun_next hs h
  · exact hn
  · simp at ht

theorem SameStream.both_byteStep (h : SameStream s u) (hstatus : s.status = .decode) :
    Both SameRun (byteStep s) (byteStep u) := by
  unfold byteStep
  rw [← h.len, ← h.cur]
  refine (h.both_fetchRun _).andThen fun s1 u1 hs1 h1 => ?_
  rw [← h1.launch.status]
  refine Both.ite (fun hdecode => ?_) fun _ => .next h1
  exact (h1.stream hdecode).both_deliver (fetchRun_runlen hstatus hs1 hdecode)

/-! ### Steps and runs -/

/-- In every phase the step of the block keeps the two runs together (R254). -/
theorem SameRun.both_blockStep (h : SameRun s u) : Both SameRun (blockStep s) (blockStep u) := by
  unfold blockStep
  rw [← h.launch.status]
  cases hstatus : s.status with
  | idle => exact .next h
  | hdr => exact h.launch.both_issue_magic
  | dispatch => exact (h.config (by simp [hstatus, Phase.accepted])).both_issue_key
  | palload => exact (h.config (by simp [hstatus, Phase.accepted])).both_palloadStep
  | decode => exact (h.stream hstatus).both_byteStep hstatus
  | done => exact .next h
  | error => exact .next h

theorem SameRun.both_step (h : SameRun s u) : Both SameRun (step s) (step u) := by
  rw [step_of_alone h.launch.alone.1, step_of_alone h.launch.alone.2]
  exact h.both_blockStep

/-- One step, then `k` more. -/
theorem run_succ (k : Nat) (s : State) : core.run (k + 1) s = andThen (step s) (core.run k) := by
  cases hstep : step s <;> simp [Host.Core.run, core, hstep]

theorem SameRun.both_run (h : SameRun s u) (k : Nat) : Both SameRun (core.run k s) (core.run k u) := by
  induction k generalizing s u with
  | zero => exact .next h
  | succ k ih =>
    rw [run_succ, run_succ]
    exact h.both_step.andThen fun _ _ _ h1 => ih h1

end

end Sys2Proof.Machine
end

section
/-! PROOFS. The result of a START (spec 70_reset_and_hazards.md R254): START leaves LEN and IN to decide, and a host
reads no register but those two runs of one input share. -/

namespace Sys2Proof.Machine

section

variable {s u : State}

/-! ### START -/

/-- R120: START keeps LEN and IN, and what it writes beside free values is fixed. -/
theorem sameRun_start (hlen : s.len = u.len) (hinput : s.input = u.input) (hs : s.host = []) (hu : u.host = []) :
    SameRun (start s) (start u) :=
  SameLaunch.sameRun
    { len := hlen, input := hinput, mode := rfl, status := rfl, err := rfl, errinfo := rfl, pix := rfl,
      alone := ⟨hs, hu⟩ } rfl

/-- R120: a START placed while the block is not busy is taken. -/
theorem step_start (hbusy : busy s = false) (hhost : s.host = [.start]) : step s = .next (start (setHost [] s)) := by
  have hbusy' : busy (setHost [] s) = false := hbusy
  rw [step_of_move hhost]
  simp [hostMove, hbusy', Config.isAddress, Config.addressWidth]

theorem run_start (k : Nat) (hbusy : busy s = false) (hhost : s.host = [.start]) :
    core.run (k + 1) s = core.run k (start (setHost [] s)) := by
  rw [run_succ, step_start hbusy hhost]
  rfl

/-! ### What the host reads -/

theorem SameConfig.regValue_eq (h : SameConfig s u) : ∀ r ∈ ResultRegs, regValue s r = regValue u r := by
  simp [ResultRegs, regValue, h.len, h.hdr, h.width, h.height, h.mode, h.status, h.err, h.errinfo]

/-- Outside DONE a host reads STATUS, ERR and ERRINFO at most (R258). -/
theorem readable_of_ne_done {p : Phase} {r : HostReg} (hp : p ≠ .done) (h : readable p r = true) :
    r = .status ∨ r = .err ∨ r = .errinfo := by
  cases r <;> simp_all [readable]

theorem SameRun.regValue_eq (h : SameRun s u) {r : HostReg} (hr : r ∈ ResultRegs)
    (hread : readable s.status r = true) : regValue s r = regValue u r := by
  by_cases hdone : s.status = .done
  · exact (h.config_of_done hdone).regValue_eq r hr
  · obtain rfl | rfl | rfl := readable_of_ne_done hdone hread
    · simp only [regValue, h.launch.status]
    · simp only [regValue, h.launch.err]
    · simp only [regValue, h.launch.errinfo]

theorem SameRun.sameResult (h : SameRun s u) : SameResult s u where
  regs r hr := by
    unfold hostReadReg
    rw [← h.launch.status]
    split
    · next hread => rw [h.regValue_eq hr hread]
    · rfl
  hpal j := by
    unfold hostReadHpal
    rw [← h.launch.status]
    split
    · next hdone => rw [(h.config_of_done hdone).hdr]
    · rfl
  pix a := by
    by_cases hdone : s.status = .done
    · have hc := h.config_of_done hdone
      rw [hostReadPix, hostReadPix, pixSize, pixSize, hc.status, hc.width, hc.height, hc.pix]
    · rw [hostReadPix_of_status_ne_done hdone, hostReadPix_of_status_ne_done (h.launch.status ▸ hdone)]

end

/-- Settles O54: after START the two runs share what the input decides, every step keeps it shared, and the host
reads nothing else. -/
theorem startResultDependsOnInputAlone : Obligations.StartResultDependsOnInputAlone := by
  intro s u k hbusyS hbusyU hhostS hhostU hlen hinput s' hrun
  have hstart : SameRun (start (setHost [] s)) (start (setHost [] u)) := sameRun_start hlen hinput rfl rfl
  rw [run_start k hbusyS hhostS] at hrun
  rw [run_start k hbusyU hhostU]
  obtain ⟨u', hu', hsame⟩ := (hstart.both_run k).next_of_next hrun
  exact ⟨u', hu', hsame.sameResult⟩

end Sys2Proof.Machine
end

section
/-! PROOFS. The decoder and the encoder (spec 30_encoding.md): each undoes the other at every place (R90 to R99), both
agree with the opcode table, and the assembler's forms expand into tokens that deliver what they stand for (R101,
R102). -/

namespace Sys2Proof

/-! ### Round trips -/

/-- Settles O1: the decoder computes each word. -/
theorem workedEncodingsDecode : Obligations.WorkedEncodingsDecode := by
  unfold Obligations.WorkedEncodingsDecode
  decide

/-- A LIT that can be encoded is no control byte (R91). -/
theorem isRun_of_wf_lit {v : Byte} (h : (Instr.lit v).wf = true) : isRun v = false := by
  have hv : v.toNat ≤ 0xBF := of_decide_eq_true h
  exact (isRun_eq_false_iff v).mpr (Nat.lt_succ_of_le hv)

theorem decode_encode_lit {v : Byte} (h : (Instr.lit v).wf = true) (rest : List Byte) :
    decode .token (encode (.lit v) ++ rest) = .ok (.lit v) rest :=
  decode_token_of_not_isRun (isRun_of_wf_lit h) rest

theorem decode_encode_run (n : BitVec 6) (v : Byte) (rest : List Byte) :
    decode .token (encode (.run n v) ++ rest) = .ok (.run n v) rest := by
  rw [encode, List.cons_append, List.singleton_append, decode_token_of_isRun (isRun_control n), runCount_control]

theorem decode_encode_modeBp1 {planes : Byte} (h : (Instr.modeBp1 planes).wf = true) (rest : List Byte) :
    decode .key (encode (.modeBp1 planes) ++ rest) = .ok (.modeBp1 planes) rest := by
  have hplanes : Config.planeSet.contains planes = true := h
  have hbpp : (1#8 : Byte) ≠ 8#8 := by decide
  simp only [encode, decode, List.cons_append, List.nil_append, decodeKey, hplanes, hbpp, false_and, if_false,
    and_self, if_true]

/-- Settles O4: by the instruction; a LIT is no control byte, the control byte of a RUN holds its count, and the other
patterns are compared for equality. -/
theorem decodeOfEncode : Obligations.DecodeOfEncode := by
  intro i rest hwf
  cases i with
  | lit v => exact decode_encode_lit hwf rest
  | run n v => exact decode_encode_run n v rest
  | magic => rfl
  | palmark => rfl
  | modeIdx8 => rfl
  | modeRgb24 => rfl
  | modeBp1 planes => exact decode_encode_modeBp1 hwf rest

/-! ### What decodes -/

/-- What a token that decodes is: a byte that is no control byte, or a control byte and its value byte (R90). -/
theorem decodeToken_ok {bs rest : List Byte} {i : Instr} (h : decodeToken bs = .ok i rest) :
    (∃ c, isRun c = false ∧ bs = c :: rest ∧ i = .lit c) ∨
    (∃ c v, isRun c = true ∧ bs = c :: v :: rest ∧ i = .run (runCount c) v) := by
  match bs, h with
  | [], h => cases h
  | [c], h =>
    cases hc : isRun c <;> simp [decodeToken, hc] at h
    exact .inl ⟨c, hc, by simp [← h.2], h.1.symm⟩
  | c :: v :: tail, h =>
    cases hc : isRun c <;> simp [decodeToken, hc] at h
    · exact .inl ⟨c, hc, by simp [← h.2], h.1.symm⟩
    · exact .inr ⟨c, v, hc, by simp [← h.2], h.1.symm⟩

/-- What a pair (BPP, NPLANES) that decodes is (R99). -/
theorem decodeKey_ok {bs rest : List Byte} {i : Instr} (h : decodeKey bs = .ok i rest) :
    (i = .modeIdx8 ∨ i = .modeRgb24 ∨ ∃ p, Config.planeSet.contains p = true ∧ i = .modeBp1 p) ∧
      bs = encode i ++ rest := by
  match bs, h with
  | [], h => cases h
  | [_], h => cases h
  | bpp :: nplanes :: tail, h =>
    simp only [decodeKey] at h
    split at h
    · next hkey => cases h; exact ⟨.inl rfl, by simp [encode, hkey]⟩
    · split at h
      · next hkey => cases h; exact ⟨.inr (.inl rfl), by simp [encode, hkey]⟩
      · split at h
        · next hkey => cases h; exact ⟨.inr (.inr ⟨_, hkey.2, rfl⟩), by simp [encode, hkey]⟩
        · cases h

theorem decodeMagic_ok {bs rest : List Byte} {i : Instr} (h : decodeMagic bs = .ok i rest) :
    i = .magic ∧ bs = encode i ++ rest := by
  cases bs with
  | nil => cases h
  | cons b tail =>
    simp only [decodeMagic] at h
    split at h
    · next hb => cases h; exact ⟨rfl, by rw [hb]; rfl⟩
    · cases h

theorem decodeMarker_ok {bs rest : List Byte} {i : Instr} (h : decodeMarker bs = .ok i rest) :
    i = .palmark ∧ bs = encode i ++ rest := by
  cases bs with
  | nil => cases h
  | cons b tail =>
    simp only [decodeMarker] at h
    split at h
    · next hb => cases h; exact ⟨rfl, by rw [hb]; rfl⟩
    · cases h

/-- What decodes at a place can be encoded, and its bytes are those of the encoding. -/
theorem encode_of_decode {slot : Slot} {bs rest : List Byte} {i : Instr} (h : decode slot bs = .ok i rest) :
    i.wf = true ∧ bs = encode i ++ rest := by
  cases slot with
  | token =>
    obtain ⟨c, hc, rfl, rfl⟩ | ⟨c, v, hc, rfl, rfl⟩ := decodeToken_ok h
    · exact ⟨decide_eq_true (Nat.le_of_lt_succ ((isRun_eq_false_iff c).mp hc)), rfl⟩
    · exact ⟨rfl, by simp [encode, control_runCount c hc]⟩
  | magic =>
    obtain ⟨rfl, hbs⟩ := decodeMagic_ok h
    exact ⟨rfl, hbs⟩
  | key =>
    obtain ⟨rfl | rfl | ⟨p, hp, rfl⟩, hbs⟩ := decodeKey_ok h
    · exact ⟨rfl, hbs⟩
    · exact ⟨rfl, hbs⟩
    · exact ⟨hp, hbs⟩
  | marker =>
    obtain ⟨rfl, hbs⟩ := decodeMarker_ok h
    exact ⟨rfl, hbs⟩

/-- The encoding has the length R90, R98 and R99 give the instruction. -/
theorem encode_length (i : Instr) : (encode i).length = i.size := by
  cases i <;> rfl

/-- Settles O5: what decodes is its own encoding, whose length is the instruction's. -/
theorem encodeOfDecode : Obligations.EncodeOfDecode := by
  intro slot bs i rest h
  obtain ⟨hwf, rfl⟩ := encode_of_decode h
  exact ⟨hwf, Machine.slot_of_decode_ok h, rfl, by rw [List.length_append, encode_length]⟩

/-! ### Streams of tokens -/

/-- The bytes of a well-formed token at the head of a stream expand to what it delivers (R151, R152). -/
theorem expand_encode {i : Instr} (hwf : i.wf = true) (hslot : i.slot = .token) (tail : List Byte) :
    expand (encode i ++ tail) = i.delivers ++ expand tail := by
  cases i with
  | lit v => exact expand_lit tail (isRun_of_wf_lit hwf)
  | run n v =>
    rw [encode, List.cons_append, List.singleton_append, expand_run v tail (isRun_control n), runCount_control]
    rfl
  | _ => cases hslot

theorem expand_encodeAll {is : List Instr} (h : ∀ i ∈ is, i.wf = true ∧ i.slot = .token) (tail : List Byte) :
    expand (encodeAll is ++ tail) = is.flatMap Instr.delivers ++ expand tail := by
  induction is with
  | nil => rfl
  | cons i is ih =>
    obtain ⟨⟨hwf, hslot⟩, htail⟩ := List.forall_mem_cons.mp h
    rw [encodeAll, List.append_assoc, expand_encode hwf hslot, ih htail, List.flatMap_cons, List.append_assoc]

/-- Settles O9: by the list of tokens, and by the list of bytes, each of which is a LIT. -/
theorem tokenStreamExpands : Obligations.TokenStreamExpands := by
  refine ⟨fun is tail h => expand_encodeAll h tail, fun bs hlow => ?_⟩
  induction bs with
  | nil => rfl
  | cons b bs ih =>
    obtain ⟨hb, hbs⟩ := List.forall_mem_cons.mp hlow
    rw [expand_lit bs ((isRun_eq_false_iff b).mpr hb), ih hbs]

/-! ### The assembler (R101, R102) -/

/-- The control byte of a count is 0xC0 + count (R92, R93). -/
theorem control_eq_ofNat (n : BitVec 6) : 0b11#2 ++ n = BitVec.ofNat 8 (0xC0 + n.toNat) := by
  revert n; decide

/-- Settles O7: the assembler's two conditions are those of the statement. -/
theorem assemblerRefusesWhatCannotBeEncoded : Obligations.AssemblerRefusesWhatCannotBeEncoded := by
  intro n v hv
  refine ⟨?_, ?_, fun hlow => ?_, fun hn => ?_⟩
  · simp only [asmLit, ite_eq_right_iff, reduceCtorEq, imp_false]; omega
  · simp only [asmRun, Config.maxRun, hv, and_true, ite_eq_right_iff, reduceCtorEq, imp_false]; omega
  · rw [asmLit, if_pos (Nat.le_of_lt_succ hlow)]; rfl
  · have hcount : (BitVec.ofNat 6 n).toNat = n := Nat.mod_eq_of_lt (Nat.lt_succ_of_le hn)
    rw [asmRun, if_pos ⟨hn, hv⟩, Option.map_some, encode, control_eq_ofNat, hcount]

/-- BYTE is one token that can be encoded and delivers its byte (R102). -/
theorem asmByte_spec (v : Byte) :
    (asmByte v).wf = true ∧ (asmByte v).slot = .token ∧ (asmByte v).delivers = [v] := by
  unfold asmByte
  split
  · next hlow => exact ⟨decide_eq_true (Nat.le_of_lt_succ hlow), rfl, rfl⟩
  · exact ⟨rfl, rfl, rfl⟩

/-- FILL is a list of RUNs (R102). -/
theorem mem_asmFill {k : Nat} {v : Byte} {i : Instr} (h : i ∈ asmFill k v) : ∃ n, i = .run n v := by
  obtain h | h := List.mem_append.mp h
  · exact ⟨_, List.eq_of_mem_replicate h⟩
  · split at h
    · cases h
    · exact ⟨_, List.mem_singleton.mp h⟩

/-- The RUNs of FILL deliver 63 bytes each, and the last of them what is left (R102). -/
theorem asmFill_delivers (k : Nat) (v : Byte) : (asmFill k v).flatMap Instr.delivers = List.replicate k v := by
  have hwhole : (List.replicate (k / 63) (Instr.run 63#6 v)).flatMap Instr.delivers = List.replicate (k / 63 * 63) v := by
    rw [List.flatMap_replicate]
    exact List.flatten_replicate_replicate
  have hrest : (if k % 63 = 0 then [] else [Instr.run (BitVec.ofNat 6 (k % 63)) v]).flatMap Instr.delivers =
      List.replicate (k % 63) v := by
    split
    · next h0 => rw [h0]; rfl
    · have hcount : (BitVec.ofNat 6 (k % 63)).toNat = k % 63 := Nat.mod_eq_of_lt (by omega)
      rw [List.flatMap_singleton, Instr.delivers, hcount]
  rw [asmFill, List.flatMap_append, hwhole, hrest, List.replicate_append_replicate, Nat.div_add_mod']

theorem asmRaw_delivers (bs : List Byte) : (asmRaw bs).flatMap Instr.delivers = bs := by
  simp only [asmRaw, List.flatMap_map, (asmByte_spec _).2.2, List.flatMap_singleton']

/-- The stream of a list of tokens alone gives what they deliver. -/
theorem expand_encodeAll_nil {is : List Instr} (h : ∀ i ∈ is, i.wf = true ∧ i.slot = .token) :
    expand (encodeAll is) = is.flatMap Instr.delivers := by
  simpa using expand_encodeAll h []

/-- Settles O8: each pseudo-instruction is a list of tokens that deliver its bytes. -/
theorem pseudoInstructionsDeliver : Obligations.PseudoInstructionsDeliver := by
  refine ⟨fun v => ⟨(asmByte_spec v).1, (asmByte_spec v).2.2⟩, fun k v _ => ?_, fun bs => ?_⟩
  · have htokens : ∀ i ∈ asmFill k v, i.wf = true ∧ i.slot = .token := fun i hi => by
      obtain ⟨n, rfl⟩ := mem_asmFill hi
      exact ⟨rfl, rfl⟩
    exact ⟨fun i hi => (htokens i hi).1, by rw [expand_encodeAll_nil htokens, asmFill_delivers]⟩
  · have htokens : ∀ i ∈ asmRaw bs, i.wf = true ∧ i.slot = .token := fun i hi => by
      obtain ⟨v, -, rfl⟩ := List.mem_map.mp hi
      exact ⟨(asmByte_spec v).1, (asmByte_spec v).2.1⟩
    exact ⟨fun i hi => (htokens i hi).1, by rw [expand_encodeAll_nil htokens, asmRaw_delivers]⟩

end Sys2Proof
end

section
/-! PROOFS. The opcode table (spec opcode_table.json, 30_encoding.md R90 to R99): the decoder agrees with every row, and
the rows of one place and length do not overlap. -/

namespace Sys2Proof

/-! ### Words of a row -/

/-- A row whose mask covers the whole word holds its pattern alone. -/
theorem word_eq_of_hit_exact {n p w : Nat} (hw : w < 2 ^ n) (h : (w &&& (2 ^ n - 1) == p) = true) : w = p := by
  rw [beq_iff_eq, Nat.and_two_pow_sub_one_eq_mod, Nat.mod_eq_of_lt hw] at h
  exact h

/-- The byte of an 8-bit word. -/
theorem toNat_ofNat_byte {w : Nat} (hw : w < 2 ^ 8) : (BitVec.ofNat 8 w).toNat = w :=
  Nat.mod_eq_of_lt hw

/-- The LIT row with bit 7 clear holds the bytes below 0x80 (R91). -/
theorem hit_lowLit (v : Byte) : (v.toNat &&& 0x80 == 0) = true ↔ v.toNat < 0x80 := by
  revert v; decide

/-- The LIT row with bit 7 set and bit 6 clear holds the bytes from 0x80 to 0xBF (R91). -/
theorem hit_highLit (v : Byte) : (v.toNat &&& 0xC0 == 0x80) = true ↔ 0x80 ≤ v.toNat ∧ v.toNat < 0xC0 := by
  revert v; decide

/-- The RUN row looks at the two top bits of the first byte (R90, R92). -/
theorem hit_run {w : Nat} (hw : w < 2 ^ 16) :
    (w &&& 0xC000 == 0xC000) = true ↔ isRun (BitVec.ofNat 8 (w / 256)) = true := by
  have hbits : w &&& 0xC000 = (w / 256 &&& 0xC0) * 256 := by
    have hlow : (w &&& 0xC000) % 256 = 0 := by
      have := Nat.and_mod_two_pow (a := w) (b := 0xC000) (n := 8)
      simpa using this
    have hhigh : (w &&& 0xC000) / 256 = w / 256 &&& 0xC0 := Nat.and_div_two_pow (a := w) (b := 0xC000) (n := 8)
    omega
  have htop : ∀ c : Byte, (c.toNat &&& 0xC0 = 0xC0 ↔ isRun c = true) := by decide
  rw [← htop, toNat_ofNat_byte (by omega), beq_iff_eq, hbits]
  omega

/-- Every word of a row decodes, at the row's place, to an instruction of the row. -/
theorem row_decodes {r : TableRow} (hr : r ∈ opcodeTable) {w : Nat} (hw : w < 2 ^ r.nbits) (hhit : r.hit w = true) :
    ∃ i rest, decode r.slot (tableBytes r.nbits w) = .ok i rest ∧ i.mnemonic = r.mnemonic ∧ 8 * i.size = r.nbits := by
  have hlit (h : w < 2 ^ 8) (hlow : (BitVec.ofNat 8 w).toNat < 0xC0) :
      decode .token (tableBytes 8 w) = .ok (.lit (BitVec.ofNat 8 w)) [0#8] :=
    decode_token_of_not_isRun ((isRun_eq_false_iff _).mpr hlow) [0#8]
  simp only [opcodeTable, List.cons_append, List.nil_append, List.mem_cons, List.not_mem_nil, or_false] at hr
  obtain rfl | rfl | rfl | rfl | rfl | rfl | rfl | rfl | rfl | rfl | rfl := hr
  · rw [TableRow.hit, ← toNat_ofNat_byte hw, hit_lowLit] at hhit
    exact ⟨_, _, hlit hw (by omega), rfl, rfl⟩
  · rw [TableRow.hit, ← toNat_ofNat_byte hw, hit_highLit] at hhit
    exact ⟨_, _, hlit hw hhit.2, rfl, rfl⟩
  · exact ⟨_, _, decode_token_of_isRun ((hit_run hw).mp hhit) (BitVec.ofNat 8 w) [], rfl, rfl⟩
  · obtain rfl := word_eq_of_hit_exact hw hhit; exact ⟨.magic, _, rfl, rfl, rfl⟩
  · obtain rfl := word_eq_of_hit_exact hw hhit; exact ⟨.palmark, _, rfl, rfl, rfl⟩
  · obtain rfl := word_eq_of_hit_exact hw hhit; exact ⟨.modeIdx8, _, rfl, rfl, rfl⟩
  · obtain rfl := word_eq_of_hit_exact hw hhit; exact ⟨.modeRgb24, _, rfl, rfl, rfl⟩
  · obtain rfl := word_eq_of_hit_exact hw hhit; exact ⟨.modeBp1 1#8, _, rfl, rfl, rfl⟩
  · obtain rfl := word_eq_of_hit_exact hw hhit; exact ⟨.modeBp1 2#8, _, rfl, rfl, rfl⟩
  · obtain rfl := word_eq_of_hit_exact hw hhit; exact ⟨.modeBp1 3#8, _, rfl, rfl, rfl⟩
  · obtain rfl := word_eq_of_hit_exact hw hhit; exact ⟨.modeBp1 4#8, _, rfl, rfl, rfl⟩

/-! ### The row of an instruction -/

/-- The word of an instruction, its first byte on top (R92). -/
def Instr.word : Instr → Nat
  | .lit v => v.toNat
  | .run n v => (0b11#2 ++ n ++ v).toNat
  | .magic => 0x0A
  | .palmark => 0x0C
  | .modeIdx8 => 0x0801
  | .modeRgb24 => 0x0803
  | .modeBp1 planes => 0x0100 + planes.toNat

/-- The row of the opcode table an instruction belongs to. -/
def Instr.row : Instr → TableRow
  | .lit v => if v.toNat < 0x80 then ⟨"LIT", .token, 8, 0x80, 0x00⟩ else ⟨"LIT", .token, 8, 0xC0, 0x80⟩
  | .run _ _ => ⟨"RUN", .token, 16, 0xC000, 0xC000⟩
  | .magic => ⟨"MAGIC", .magic, 8, 0xFF, 0x0A⟩
  | .palmark => ⟨"PALMARK", .marker, 8, 0xFF, 0x0C⟩
  | .modeIdx8 => ⟨"MODE.IDX8", .key, 16, 0xFFFF, 0x0801⟩
  | .modeRgb24 => ⟨"MODE.RGB24", .key, 16, 0xFFFF, 0x0803⟩
  | .modeBp1 planes => ⟨"MODE.BP1", .key, 16, 0xFFFF, 0x0100 + planes.toNat⟩

/-- An instruction's word lies in its row, and spells its bytes. -/
structure Instr.InRow (i : Instr) (r : TableRow) : Prop where
  mem : r ∈ opcodeTable
  slot : r.slot = i.slot
  nbits : r.nbits = 8 * i.size
  mnemonic : r.mnemonic = i.mnemonic
  word_lt : i.word < 2 ^ r.nbits
  bytes : (tableBytes r.nbits i.word).take i.size = encode i
  hit : r.hit i.word = true
  only : ∀ r' ∈ opcodeTable, r'.slot = i.slot → r'.nbits = r.nbits → r'.hit i.word = true → r' = r

/-- The rows of 8-bit words of the token stream are the two of LIT. -/
theorem token8_rows : ∀ r ∈ opcodeTable, r.slot = .token → r.nbits = 8 →
    r = ⟨"LIT", .token, 8, 0x80, 0x00⟩ ∨ r = ⟨"LIT", .token, 8, 0xC0, 0x80⟩ := by decide

theorem token16_rows : ∀ r ∈ opcodeTable, r.slot = .token → r.nbits = 16 →
    r = ⟨"RUN", .token, 16, 0xC000, 0xC000⟩ := by decide

theorem inRow_lit {v : Byte} (h : (Instr.lit v).wf = true) : (Instr.lit v).InRow (Instr.lit v).row := by
  have hlow : v.toNat < 0xC0 := (isRun_eq_false_iff v).mp (isRun_of_wf_lit h)
  have hbytes : (tableBytes 8 v.toNat).take 1 = [v] := by simp [tableBytes]
  by_cases hv : v.toNat < 0x80
  · rw [Instr.row, if_pos hv]
    refine ⟨by decide, rfl, rfl, rfl, v.isLt, hbytes, (hit_lowLit v).mpr hv, fun r' hr' hslot hnbits hhit => ?_⟩
    obtain rfl | rfl := token8_rows r' hr' hslot hnbits
    · rfl
    · exact absurd ((hit_highLit v).mp hhit).1 (by omega)
  · rw [Instr.row, if_neg hv]
    refine ⟨by decide, rfl, rfl, rfl, v.isLt, hbytes, (hit_highLit v).mpr ⟨by omega, hlow⟩,
      fun r' hr' hslot hnbits hhit => ?_⟩
    obtain rfl | rfl := token8_rows r' hr' hslot hnbits
    · exact absurd ((hit_lowLit v).mp hhit) hv
    · rfl

theorem inRow_run (n : BitVec 6) (v : Byte) : (Instr.run n v).InRow (Instr.run n v).row := by
  have hword : (Instr.run n v).word = (0b11#2 ++ n).toNat * 256 + v.toNat := by
    rw [Instr.word, BitVec.toNat_append, ← Nat.shiftLeft_add_eq_or_of_lt v.isLt, Nat.shiftLeft_eq]
  have hv := v.isLt
  have hfirst : BitVec.ofNat 8 ((Instr.run n v).word / 256) = 0b11#2 ++ n := by
    rw [hword, show ((0b11#2 ++ n).toNat * 256 + v.toNat) / 256 = (0b11#2 ++ n).toNat by omega]
    exact BitVec.ofNat_toNat 8 _
  have hsecond : BitVec.ofNat 8 (Instr.run n v).word = v := by
    apply BitVec.eq_of_toNat_eq
    rw [hword, BitVec.toNat_ofNat]
    omega
  have hlt : (Instr.run n v).word < 2 ^ 16 := (0b11#2 ++ n ++ v).isLt
  refine ⟨by simp [Instr.row, opcodeTable], rfl, rfl, rfl, hlt, ?_, (hit_run hlt).mpr ?_, fun r' hr' hslot hnbits _ =>
    token16_rows r' hr' hslot hnbits⟩
  · simp [Instr.row, tableBytes, hfirst, hsecond, encode, Instr.size]
  · rw [hfirst]; exact isRun_control n

theorem inRow_modeBp1 {planes : Byte} (h : (Instr.modeBp1 planes).wf = true) :
    (Instr.modeBp1 planes).InRow (Instr.modeBp1 planes).row := by
  have hplanes : planes ∈ [1#8, 2#8, 3#8, 4#8] := by simpa [Instr.wf, Config.planeSet] using h
  simp only [List.mem_cons, List.not_mem_nil, or_false] at hplanes
  obtain rfl | rfl | rfl | rfl := hplanes <;> constructor <;> decide

theorem inRow_row {i : Instr} (h : i.wf = true) : i.InRow i.row := by
  cases i with
  | lit v => exact inRow_lit h
  | run n v => exact inRow_run n v
  | magic => constructor <;> decide
  | palmark => constructor <;> decide
  | modeIdx8 => constructor <;> decide
  | modeRgb24 => constructor <;> decide
  | modeBp1 planes => exact inRow_modeBp1 h

/-- Settles O6: a row's words decode to the row's instruction, which can be encoded; an instruction's word is in its row
alone. -/
theorem decodeAgreesWithOpcodeTable : Obligations.DecodeAgreesWithOpcodeTable := by
  refine ⟨fun r hr w hw hhit => ?_, fun i hwf => ?_⟩
  · obtain ⟨i, rest, hdec, hmnemonic, hsize⟩ := row_decodes hr hw hhit
    exact ⟨i, rest, hdec, (encode_of_decode hdec).1, hmnemonic, hsize⟩
  · have hrow := inRow_row hwf
    exact ⟨i.row, hrow.mem, hrow.slot, hrow.nbits, hrow.mnemonic, i.word, hrow.word_lt, hrow.bytes, hrow.hit, hrow.only⟩

end Sys2Proof
end

section
/-! PROOFS. The tokens (spec 41_rle_stream.md R151 to R153, R159): what RUN answers, what a token fetch reads and raises,
and that a byte-step with no run active is one token followed by a byte-step (R154). -/

namespace Sys2Proof.Machine

section Tokens

variable {s : State}

/-! ### Fetching a RUN (R152, R153) -/

theorem fetchBytes_token_of_isRun {c v : Byte} (hcur : s.cur + 1 < s.len) (hc : s.input.read s.cur = some c)
    (hrun : isRun c = true) (hv : s.input.read (s.cur + 1) = some v) : fetchBytes .token s = .ok [c, v] := by
  have hlt : s.cur < s.len := Nat.lt_of_succ_lt hcur
  simp [fetchBytes, Nat.not_le.mpr hlt, memRead1_of_read hlt hc, hrun, hcur, memRead1_of_read hcur hv, Except.map]

/-- A control byte that is the last byte of the input is all a token fetch reads (R153). -/
theorem fetchBytes_token_cut {c : Byte} (hcur : s.cur + 1 = s.len) (hc : s.input.read s.cur = some c) :
    fetchBytes .token s = .ok [c] := by
  have hlt : s.cur < s.len := by omega
  simp [fetchBytes, Nat.not_le.mpr hlt, memRead1_of_read hlt hc, hcur]

/-- R152: a control byte at CUR and the byte after it are run as the RUN of them. -/
theorem issue_token_of_isRun {c v : Byte} (hcur : s.cur + 1 < s.len) (hc : s.input.read s.cur = some c)
    (hrun : isRun c = true) (hv : s.input.read (s.cur + 1) = some v) :
    issue .token s = exec (.run (runCount c) v) s :=
  issue_of_decode_ok (fetchBytes_token_of_isRun hcur hc hrun hv) (decode_token_of_isRun hrun v [])

/-- R153: a control byte without a value byte below LEN raises TruncatedStream. -/
theorem issue_token_cut {c : Byte} (hcur : s.cur + 1 = s.len) (hc : s.input.read s.cur = some c)
    (hrun : isRun c = true) : issue .token s = .next (raise .truncatedStream 0#16 s) := by
  have hdec : decode .token [c] = .bad .noValueByte := by simp [decode, decodeToken, hrun]
  exact issue_of_decode_bad (fetchBytes_token_cut hcur hc) hdec

/-- The end of the stream at CUR: no byte is left below LEN, or only a control byte (R153). -/
abbrev AtStreamEnd (s : State) : Prop :=
  s.len ≤ s.cur ∨ s.cur + 1 = s.len ∧ ∃ c, inByte s s.cur = some c ∧ isRun c = true

theorem issue_token_of_atStreamEnd (h : AtStreamEnd s) : issue .token s = .next (raise .truncatedStream 0#16 s) := by
  obtain hend | ⟨hcur, c, hc, hrun⟩ := h
  · exact issue_token_past_end hend
  · exact issue_token_cut hcur hc hrun

/-- Settles O12: CUR + 1 against LEN decides what RUN answers; the control byte of a count is fetched as its RUN. -/
theorem runLoadsCountAndValue : Obligations.RunLoadsCountAndValue := by
  intro n v s
  refine ⟨fun hcur => ?_, fun hend => ?_, fun hcur hc hv => ?_⟩
  · rw [execRun_eq, if_neg (Nat.not_le.mpr hcur)]
    rfl
  · rw [execRun_eq, if_pos hend]
    rfl
  · rw [issue_token_of_isRun hcur hc (isRun_control n) hv, runCount_control]

/-- Settles O15: what each token that goes on has done is a whole state. -/
theorem tokenFrame : Obligations.TokenFrame := by
  intro i s t hslot h
  cases i with
  | lit v =>
    obtain ⟨hcur, rfl⟩ | ⟨hend, rfl⟩ := execLit_next h
    · exact ⟨by simp [inByte], .inl ⟨hcur, by simp [Instr.size, pixByte]⟩⟩
    · exact ⟨by simp [inByte], .inr ⟨Nat.lt_succ_of_le hend, by simp⟩⟩
  | run n v =>
    obtain ⟨hcur, rfl⟩ | ⟨hend, rfl⟩ := execRun_next h
    · exact ⟨by simp [inByte], .inl ⟨hcur, by simp [Instr.size, pixByte]⟩⟩
    · exact ⟨by simp [inByte], .inr ⟨Nat.lt_succ_of_le hend, by simp⟩⟩
  | _ => cases hslot

/-! ### The fetch loop token by token (R154) -/

/-- A token that goes on and leaves the block in DECODE has moved CUR and kept LEN. -/
theorem issueToken_cur {t : State} (h : issue .token s = .next t) (ht : t.status = .decode) :
    t.len = s.len ∧ s.cur < t.cur := by
  obtain ⟨c, -, -, -, rfl⟩ | ⟨c, v, -, -, -, -, rfl⟩ | ⟨-, rfl⟩ := issueToken_next h
  · exact ⟨rfl, Nat.lt_succ_self _⟩
  · exact ⟨rfl, Nat.lt_add_of_pos_right Nat.two_pos⟩
  · cases ht

/-- With CUR at or beyond LEN and no run active the fetch loop raises, whatever its fuel. -/
theorem fetchRun_past_end (k : Nat) (hend : s.len ≤ s.cur) (hrun : s.runlen = 0#6) :
    fetchRun k s = .next (raise .truncatedStream 0#16 s) := by
  cases k with
  | zero => rw [fetchRun, if_pos hrun]
  | succ k => rw [fetchRun, if_pos hrun, issue_token_past_end hend, andThen_next, if_neg (by simp)]

/-- Any fuel of at least LEN − CUR gives the same fetch loop, since every token moves CUR. -/
theorem fetchRun_fuel {k j : Nat} (hk : s.len - s.cur ≤ k) (hj : s.len - s.cur ≤ j) : fetchRun k s = fetchRun j s := by
  by_cases hrun : s.runlen = 0#6
  · induction k generalizing s j with
    | zero => rw [fetchRun_past_end 0 (by omega) hrun, fetchRun_past_end j (by omega) hrun]
    | succ k ih =>
      cases j with
      | zero => rw [fetchRun_past_end (k + 1) (by omega) hrun, fetchRun_past_end 0 (by omega) hrun]
      | succ j =>
        rw [fetchRun, fetchRun, if_pos hrun, if_pos hrun]
        refine andThen_congr fun t ht => ?_
        split
        · next hdecode =>
          obtain ⟨hlen, hcur⟩ := issueToken_cur ht hdecode
          by_cases hrun' : t.runlen = 0#6
          · exact ih (by omega) (by omega) hrun'
          · rw [fetchRun_active k hrun', fetchRun_active j hrun']
        · rfl
  · rw [fetchRun_active k hrun, fetchRun_active j hrun]

/-- A byte-step with no run active runs the token at CUR and goes on as a byte-step from there (R154). -/
theorem byteStep_fetch (hrun : s.runlen = 0#6) :
    byteStep s = andThen (issue .token s) fun t => if t.status = .decode then byteStep t else .next t := by
  by_cases hend : s.len ≤ s.cur
  · rw [byteStep, fetchRun_past_end _ hend hrun, issue_token_past_end hend]
    simp
  · obtain ⟨k, hk⟩ : ∃ k, s.len - s.cur = k + 1 := ⟨s.len - s.cur - 1, by omega⟩
    rw [byteStep, hk, fetchRun, if_pos hrun, andThen_assoc]
    refine andThen_congr fun t ht => ?_
    by_cases hdecode : t.status = .decode
    · obtain ⟨hlen, hcur⟩ := issueToken_cur ht hdecode
      rw [if_pos hdecode, if_pos hdecode, byteStep, fetchRun_fuel (by omega) (Nat.le_refl (t.len - t.cur))]
    · simp only [if_neg hdecode, andThen_next]

/-- R153: with no run active, the end of the stream at CUR raises TruncatedStream. -/
theorem byteStep_of_atStreamEnd (hrun : s.runlen = 0#6) (h : AtStreamEnd s) :
    byteStep s = .next (raise .truncatedStream 0#16 s) := by
  rw [byteStep_fetch hrun, issue_token_of_atStreamEnd h]
  simp

/-- Settles O13: the fetch of the byte-step raises at the end of the stream. -/
theorem fetchPastTheEndRaisesTruncated : Obligations.FetchPastTheEndRaisesTruncated := by
  intro s halone hdecode hrun hend
  rw [step_of_decode halone hdecode, byteStep_of_atStreamEnd hrun hend]
  rfl

/-- A RUN of count 0 that is fetched leaves no run active, and CUR after its two bytes (R159, with ZERO_RUN = skip). -/
theorem issue_token_of_zeroRun {v : Byte} (hrun : s.runlen = 0#6) (hcur : s.cur + 1 < s.len)
    (hc : s.input.read s.cur = some 0xC0#8) (hv : s.input.read (s.cur + 1) = some v) :
    issue .token s = .next { s with runval := v, cur := s.cur + 2 } := by
  have hcount : runCount 0xC0#8 = s.runlen := hrun.symm
  rw [issue_token_of_isRun hcur hc rfl hv, execRun_eq, if_neg (Nat.not_le.mpr hcur), hcount, setToken]

/-- Settles O14: the byte-step runs the token and goes on as a byte-step after it. -/
theorem zeroCountRunIsSkipped : Obligations.ZeroCountRunIsSkipped := by
  intro s v halone hdecode hrun hcur hc hv
  rw [step_of_decode halone hdecode, byteStep_fetch hrun, issue_token_of_zeroRun hrun hcur hc hv, andThen_next,
    if_pos hdecode]
  exact (step_of_decode (s := { s with runval := v, cur := s.cur + 2 }) halone hdecode).symm

end Tokens

/-! ### The step of each phase (R131, R154) -/

section Phases

variable {s : State}

theorem step_of_hdr (halone : s.host = []) (hstatus : s.status = .hdr) : step s = issue .magic s := by
  rw [step_of_alone halone]
  simp [blockStep, hstatus]

theorem step_of_dispatch (halone : s.host = []) (hstatus : s.status = .dispatch) : step s = issue .key s := by
  rw [step_of_alone halone]
  simp [blockStep, hstatus]

theorem step_of_palload (halone : s.host = []) (hstatus : s.status = .palload) : step s = palloadStep s := by
  rw [step_of_alone halone]
  simp [blockStep, hstatus]

theorem palloadStep_of_idx8 (hmode : s.mode = .idx8) : palloadStep s = issue .marker s := by
  simp [palloadStep, hmode]

end Phases

/-- Settles O10: each phase issues what its place holds, and `issue` is `exec` of what decodes. -/
theorem stepRunsDecodedInstruction : Obligations.StepRunsDecodedInstruction := by
  intro s slot bs i rest halone hfetch hdec
  have hissue : issue slot s = exec i s := issue_of_decode_ok hfetch hdec
  refine ⟨?_, fun hdecode hslot hrun => ?_⟩
  · rintro (⟨hstatus, rfl⟩ | ⟨hstatus, rfl⟩ | ⟨hstatus, hmode, rfl⟩)
    · rw [step_of_hdr halone hstatus, hissue]
    · rw [step_of_dispatch halone hstatus, hissue]
    · rw [step_of_palload halone hstatus, palloadStep_of_idx8 hmode, hissue]
  · subst hslot
    rw [step_of_decode halone hdecode, byteStep_fetch hrun, hissue]

end Sys2Proof.Machine
end

section
/-! PROOFS. The configuration (spec 40_config_load.md): what each place that is loaded gives, what the HDR, DISPATCH and
PALLOAD steps answer, and what the patterns leave unchanged (R121 to R130, R150). -/

namespace Sys2Proof.Machine

section Configuration

variable {s t : State}

/-! ### The magic byte (R121) -/

theorem memRead1_unloaded {a : Nat} (ha : a < s.len) (h : s.input.read a = none) :
    memRead1 s a = .error (.inUnloaded a) := by
  simp [memRead1, ha, h]

theorem issue_magic_of_empty (hlen : s.len = 0) : issue .magic s = .next (raise .invalidMagic 0#16 s) :=
  issue_of_decode_bad (bs := []) (e := .badMagic) (by simp [fetchBytes, hlen]) rfl

theorem fetchBytes_magic_of_read {b : Byte} (hlen : 0 < s.len) (hb : s.input.read 0 = some b) :
    fetchBytes .magic s = .ok [b] := by
  simp [fetchBytes, Nat.ne_of_gt hlen, memRead1_of_read hlen hb, Except.map]

theorem issue_magic_of_magic (hlen : 0 < s.len) (hb : s.input.read 0 = some 10#8) :
    issue .magic s = exec .magic s :=
  issue_of_decode_ok (fetchBytes_magic_of_read hlen hb) rfl

theorem issue_magic_of_ne {b : Byte} (hlen : 0 < s.len) (hb : s.input.read 0 = some b) (hne : b ≠ 10#8) :
    issue .magic s = .next (raise .invalidMagic 0#16 s) :=
  issue_of_decode_bad (e := .badMagic) (fetchBytes_magic_of_read hlen hb) (if_neg hne)

theorem issue_magic_of_unloaded (hlen : 0 < s.len) (hb : s.input.read 0 = none) :
    issue .magic s = .fault (.inUnloaded 0) := by
  simp [issue, fetchBytes, Nat.ne_of_gt hlen, memRead1_unloaded hlen hb, Except.map]

/-- The cause of InvalidMagic (R121). -/
abbrev BadMagic (s : State) : Prop := s.len = 0 ∨ 0 < s.len ∧ ∃ b, inByte s 0 = some b ∧ b ≠ 10#8

theorem issue_magic_of_bad (h : BadMagic s) : issue .magic s = .next (raise .invalidMagic 0#16 s) := by
  obtain hlen | ⟨hlen, b, hb, hne⟩ := h
  · exact issue_magic_of_empty hlen
  · exact issue_magic_of_ne hlen hb hne

/-- What the HDR step that goes on has done, with the cause of its raise (R121). -/
theorem issue_magic_cases (h : issue .magic s = .next t) :
    (BadMagic s ∧ t = raise .invalidMagic 0#16 s) ∨ (0 < s.len ∧ inByte s 0 = some 10#8 ∧ exec .magic s = .next t) := by
  obtain hlen | hlen := Nat.eq_zero_or_pos s.len
  · rw [issue_magic_of_empty hlen] at h
    exact .inl ⟨.inl hlen, (Host.Outcome.next.inj h).symm⟩
  · cases hb : s.input.read 0 with
    | none => rw [issue_magic_of_unloaded hlen hb] at h; cases h
    | some b =>
      by_cases hmagic : b = 10#8
      · subst hmagic
        rw [issue_magic_of_magic hlen hb] at h
        exact .inr ⟨hlen, hb, h⟩
      · rw [issue_magic_of_ne hlen hb hmagic] at h
        exact .inl ⟨.inr ⟨hlen, b, hb, hmagic⟩, (Host.Outcome.next.inj h).symm⟩

/-! ### The header and the dimensions (R122 to R125) -/

/-- R122: a file shorter than the header raises TruncatedStream. -/
theorem exec_magic_of_short (h : s.len < 128) : exec .magic s = .next (raise .truncatedStream 0#16 s) := by
  have hshort : s.len < Config.hdrSize := h
  simp only [exec, execMagic, if_pos hshort]

/-- R124, R125: with AW unbounded the dimensions alone decide how the header load ends. -/
theorem openImage_eq (s : State) :
    openImage s = .next (if s.width ≤ 0 ∨ s.height ≤ 0 then raise .invalidDimensions 0#16 s else openPix s) := by
  simp only [openImage, Config.addressWidth, Config.fitsSpace, if_true]
  split <;> rfl

/-- The state MAGIC reaches on a loaded file before it checks the dimensions (R123, R124). -/
def headerLoaded (s : State) : State :=
  setDims (dimension (wordAt s 4) (wordAt s 8)) (dimension (wordAt s 6) (wordAt s 10)) (setHeader (headerAt s) s)

/-- R122 to R125: MAGIC on a loaded file. -/
theorem exec_magic_of_loaded (hwf : s.input.wf) (hloaded : Loaded s) (hlen : 128 ≤ s.len) :
    exec .magic s = openImage (headerLoaded s) := by
  have hlong : ¬ s.len < Config.hdrSize := Nat.not_lt.mpr hlen
  simp only [exec, execMagic, if_neg hlong, loadHeader, readHeader_of_loaded hwf hloaded hlen, withRead_ok]
  rfl

/-- A dimension is positive exactly when its bounds are in order (R124, D11). -/
theorem dimension_nonpos_iff (lo hi : Half) : dimension lo hi ≤ 0 ↔ hi.toNat < lo.toNat := by
  unfold dimension
  omega

/-- The cause of InvalidDimensions (R124). -/
abbrev EmptyBox (s : State) : Prop :=
  (wordAt s 8).toNat < (wordAt s 4).toNat ∨ (wordAt s 10).toNat < (wordAt s 6).toNat

theorem headerLoaded_dims (s : State) : (headerLoaded s).width ≤ 0 ∨ (headerLoaded s).height ≤ 0 ↔ EmptyBox s :=
  or_congr (dimension_nonpos_iff _ _) (dimension_nonpos_iff _ _)

/-- R124: an empty bounding box raises with the header and the computed dimensions in place (R212). -/
theorem exec_magic_of_emptyBox (hwf : s.input.wf) (hloaded : Loaded s) (hlen : 128 ≤ s.len) (h : EmptyBox s) :
    exec .magic s = .next (raise .invalidDimensions 0#16 (headerLoaded s)) := by
  rw [exec_magic_of_loaded hwf hloaded hlen, openImage_eq, if_pos ((headerLoaded_dims s).mpr h)]

/-- R125: with a bounding box that is not empty PIX comes into being. -/
theorem exec_magic_of_box (hwf : s.input.wf) (hloaded : Loaded s) (hlen : 128 ≤ s.len) (h : ¬ EmptyBox s) :
    exec .magic s = .next (openPix (headerLoaded s)) := by
  rw [exec_magic_of_loaded hwf hloaded hlen, openImage_eq, if_neg (mt (headerLoaded_dims s).mp h)]

/-! ### The mode keys (R126) -/

/-- A pair selects one mode (R99). -/
theorem supportedPair_mode_unique {bpp nplanes : Byte} {m m' : Mode} (h : SupportedPair bpp nplanes m)
    (h' : SupportedPair bpp nplanes m') : m = m' := by
  have hplanes : (1#8 : Byte) ≠ 3#8 := by decide
  have hbpp : (8#8 : Byte) ≠ 1#8 := by decide
  obtain ⟨hb, hn, rfl⟩ | ⟨hb, hn, rfl⟩ | ⟨hb, -, -, rfl⟩ := h <;>
    obtain ⟨hb', hn', rfl⟩ | ⟨hb', hn', rfl⟩ | ⟨hb', -, -, rfl⟩ := h' <;> simp_all

/-- The DISPATCH step never stops the machine. -/
theorem issue_key_answers (s : State) : ∃ t, issue .key s = .next t := by
  have hfetch : fetchBytes .key s = .ok [s.hdr.bpp, s.hdr.nplanes] := rfl
  cases hdec : decode .key [s.hdr.bpp, s.hdr.nplanes] with
  | bad e => exact ⟨_, issue_of_decode_bad hfetch hdec⟩
  | ok i rest =>
    rw [issue_of_decode_ok hfetch hdec]
    have hkey : decodeKey [s.hdr.bpp, s.hdr.nplanes] = .ok i rest := hdec
    obtain ⟨rfl | rfl | ⟨p, -, rfl⟩, -⟩ := decodeKey_ok hkey <;> exact ⟨_, rfl⟩

/-- R126: a supported pair selects its mode. -/
theorem issue_key_of_supported {m : Mode} (h : SupportedPair s.hdr.bpp s.hdr.nplanes m) :
    issue .key s = .next (selectMode m s) := by
  obtain ⟨t, ht⟩ := issue_key_answers s
  obtain ⟨m', hm', rfl⟩ | ⟨hnone, -⟩ := issueKey_next ht
  · rw [ht, supportedPair_mode_unique h hm']
  · exact absurd h (hnone m)

/-- R126: every other pair raises UnsupportedFormat. -/
theorem issue_key_of_unsupported (h : ∀ m, ¬ SupportedPair s.hdr.bpp s.hdr.nplanes m) :
    issue .key s = .next (raise .unsupportedFormat (formatInfo s.hdr.bpp s.hdr.nplanes) s) := by
  obtain ⟨t, ht⟩ := issue_key_answers s
  obtain ⟨m, hm, -⟩ | ⟨-, rfl⟩ := issueKey_next ht
  · exact absurd hm (h m)
  · exact ht

/-- R40, R126: ERRINFO of UnsupportedFormat holds the pair. -/
theorem formatInfo_fields (bpp nplanes : Byte) :
    (formatInfo bpp nplanes).extractLsb' 0 8 = bpp ∧ (formatInfo bpp nplanes).extractLsb' 8 8 = nplanes := by
  have hbit (i : Nat) : (formatInfo bpp nplanes).getLsbD i = if i < 8 then bpp.getLsbD i else nplanes.getLsbD (i - 8) :=
    BitVec.getLsbD_append
  constructor
  · ext i hi; simp [hbit, hi]
  · ext i hi; simp [hbit, BitVec.getLsbD_eq_getElem hi]

/-! ### The palette (R127 to R130) -/

theorem issue_marker_of_short (hlen : s.len < 769) : issue .marker s = .next (raise .truncatedStream 0#16 s) := by
  have hshort : s.len < Config.palTail := hlen
  exact issue_of_decode_bad (bs := []) (e := .noMarkerByte) (by simp only [fetchBytes, if_pos hshort]) rfl

theorem fetchBytes_marker_of_read {b : Byte} (hlen : 769 ≤ s.len) (hb : s.input.read (s.len - 769) = some b) :
    fetchBytes .marker s = .ok [b] := by
  have hlong : ¬ s.len < Config.palTail := Nat.not_lt.mpr hlen
  have hread : memRead1 s (s.len - Config.palTail) = .ok b := memRead1_of_read (by simp only [Config.palTail]; omega) hb
  simp only [fetchBytes, if_neg hlong, hread, Except.map]

theorem issue_marker_of_marker (hlen : 769 ≤ s.len) (hb : s.input.read (s.len - 769) = some 12#8) :
    issue .marker s = exec .palmark s :=
  issue_of_decode_ok (fetchBytes_marker_of_read hlen hb) rfl

theorem issue_marker_of_ne {b : Byte} (hlen : 769 ≤ s.len) (hb : s.input.read (s.len - 769) = some b)
    (hne : b ≠ 12#8) : issue .marker s = .next (raise .missingPalette 0#16 s) :=
  issue_of_decode_bad (e := .badMarker) (fetchBytes_marker_of_read hlen hb) (if_neg hne)

theorem issue_marker_of_unloaded (hlen : 769 ≤ s.len) (hb : s.input.read (s.len - 769) = none) :
    issue .marker s = .fault (.inUnloaded (s.len - 769)) := by
  have hlong : ¬ s.len < Config.palTail := Nat.not_lt.mpr hlen
  have hread : memRead1 s (s.len - Config.palTail) = .error (.inUnloaded (s.len - 769)) :=
    memRead1_unloaded (by simp only [Config.palTail]; omega) hb
  simp only [issue, fetchBytes, if_neg hlong, hread, Except.map, withRead_error]

/-- What the palette check that goes on has done, with the causes of its raises (R128). -/
theorem issue_marker_cases (h : issue .marker s = .next t) :
    (s.len < 769 ∧ t = raise .truncatedStream 0#16 s) ∨
    (769 ≤ s.len ∧ (∃ b, inByte s (s.len - 769) = some b ∧ b ≠ 12#8) ∧ t = raise .missingPalette 0#16 s) ∨
    (769 ≤ s.len ∧ inByte s (s.len - 769) = some 12#8 ∧ exec .palmark s = .next t) := by
  obtain hlen | hlen := Nat.lt_or_ge s.len 769
  · rw [issue_marker_of_short hlen] at h
    exact .inl ⟨hlen, (Host.Outcome.next.inj h).symm⟩
  · cases hb : s.input.read (s.len - 769) with
    | none => rw [issue_marker_of_unloaded hlen hb] at h; cases h
    | some b =>
      by_cases hmarker : b = 12#8
      · subst hmarker
        rw [issue_marker_of_marker hlen hb] at h
        exact .inr (.inr ⟨hlen, hb, h⟩)
      · rw [issue_marker_of_ne hlen hb hmarker] at h
        exact .inr (.inl ⟨hlen, ⟨b, hb, hmarker⟩, (Host.Outcome.next.inj h).symm⟩)

theorem exec_palmark_of_short (hlen : s.len < 769) : exec .palmark s = .next (raise .truncatedStream 0#16 s) := by
  have hshort : s.len < Config.palTail := hlen
  simp only [exec, execPalmark, if_pos hshort]

/-- R128: PALMARK on a loaded file takes its last 768 bytes. -/
theorem exec_palmark_of_loaded (hwf : s.input.wf) (hloaded : Loaded s) (hlen : 769 ≤ s.len) :
    exec .palmark s = .next (decodeInit (setPal (Vector.ofFn fun j => inAt s (s.len - 768 + j.val)) s)) := by
  have hlong : ¬ s.len < Config.palTail := Nat.not_lt.mpr hlen
  have hread : readBytes s (s.len - Config.palBytes) Config.palBytes =
      .ok (Vector.ofFn fun j => inAt s (s.len - 768 + j.val)) :=
    readBytes_of_loaded hwf _ _ (by simp only [Config.palBytes]; omega) fun j hj => hloaded _ (by
      simp only [Config.palBytes] at hj ⊢; omega)
  simp only [exec, execPalmark, if_neg hlong, hread, withRead_ok]
  rfl

/-- What PALMARK that goes on has done (R128). -/
theorem exec_palmark_cases (h : exec .palmark s = .next t) :
    (s.len < 769 ∧ t = raise .truncatedStream 0#16 s) ∨
    (769 ≤ s.len ∧ ∃ p : Vector Byte 768, t = decodeInit (setPal p s)) :=
  (execPalmark_next h).imp id fun ⟨hlen, p, _, ht⟩ => ⟨hlen, p, ht⟩

theorem palloadStep_of_rgb24 (hmode : s.mode = .rgb24) : palloadStep s = .next (decodeInit s) := by
  simp [palloadStep, hmode, palloadRgb24]

theorem palloadStep_of_bp1 (hmode : s.mode = .bp1) :
    palloadStep s = .next (decodeInit (setPal (bp1Palette s.hdr.hpal s.pal) s)) := by
  simp [palloadStep, hmode, palloadBp1]

/-- BPL is 0 as a word exactly when it is as a number. -/
theorem bpl_eq_zero_iff (b : Half) : b.toNat = 0 ↔ b = 0#16 :=
  ⟨fun h => BitVec.eq_of_toNat_eq h, fun h => by rw [h]; rfl⟩

/-- DECODE.INIT with its numbers written out (R150, R158). -/
theorem decodeInit_eq (s : State) : decodeInit s = { s with
    cur := 128, runlen := 0#6, row := 0#17, pln := 0#3, bcnt := 0#16
    acc := if s.mode = .bp1 then List.replicate s.width.toNat 0#4 else s.acc
    status := if s.hdr.bpl.toNat = 0 then .done else .decode } := by
  have hstatus : (if s.hdr.bpl = 0#16 then Phase.done else .decode) = if s.hdr.bpl.toNat = 0 then .done else .decode :=
    if_congr (bpl_eq_zero_iff _).symm rfl rfl
  rw [decodeInit, hstatus]
  rfl

/-- DECODE.INIT does not look at PAL. -/
theorem decodeInit_setPal (p : Vector Byte 768) (s : State) :
    decodeInit (setPal p s) = { decodeInit s with pal := p } := rfl

/-! ### What MAGIC keeps -/

/-- Every way MAGIC goes on keeps all registers but the header, the dimensions, STATUS, ERR and ERRINFO. -/
theorem exec_magic_keeps (h : exec .magic s = .next t) :
    t = { s with
      hdr := t.hdr, width := t.width, height := t.height, status := t.status, err := t.err, errinfo := t.errinfo
      pix := t.pix } ∧
    (t.status = .error ∧ t.pix = none ∨
      t.status = .dispatch ∧ t.err = s.err ∧ t.errinfo = s.errinfo ∧ t.pix = some []) := by
  obtain ⟨-, rfl⟩ | ⟨-, hd, -, ⟨-, rfl⟩ | ⟨-, -, rfl⟩⟩ := execMagic_next h
  · exact ⟨rfl, .inl ⟨rfl, rfl⟩⟩
  · exact ⟨rfl, .inl ⟨rfl, rfl⟩⟩
  · exact ⟨rfl, .inr ⟨rfl, rfl, rfl, rfl⟩⟩

end Configuration

/-! ### The obligations -/

/-- Settles O16: the HDR step issues MAGIC or raises by the first byte. -/
theorem magicByteIsTheFirstCheck : Obligations.MagicByteIsTheFirstCheck := by
  intro s halone hstatus
  rw [step_of_hdr halone hstatus]
  exact ⟨issue_magic_of_bad, issue_magic_of_magic⟩

/-- Settles O17: MAGIC checks the length first. -/
theorem shortHeaderIsTruncated : Obligations.ShortHeaderIsTruncated := fun _ => exec_magic_of_short

/-- Settles O18: the dimensions of a box that is not empty are positive, so MAGIC opens PIX. -/
theorem magicLoadsTheHeader : Obligations.MagicLoadsTheHeader := by
  intro s hwf hloaded hlen hx hy
  have hbox : ¬ EmptyBox s := fun h => h.elim (Nat.not_lt.mpr hx) (Nat.not_lt.mpr hy)
  rw [exec_magic_of_box hwf hloaded hlen hbox]
  rfl

/-- Settles O19: a dimension of an empty box is not positive, so MAGIC raises. -/
theorem emptyBoundingBoxRaises : Obligations.EmptyBoundingBoxRaises := by
  intro s hwf hloaded hlen hbox
  rw [exec_magic_of_emptyBox hwf hloaded hlen hbox]
  rfl

/-- Settles O20: a pair selects one mode at most, and ERRINFO of any other holds the pair. -/
theorem dispatchSelectsTheMode : Obligations.DispatchSelectsTheMode := by
  refine ⟨fun s planes => ⟨rfl, rfl, rfl⟩, fun s halone hstatus => ?_⟩
  rw [step_of_dispatch halone hstatus]
  refine ⟨fun m hm => issue_key_of_supported hm, fun hnone => ⟨formatInfo s.hdr.bpp s.hdr.nplanes, ?_⟩⟩
  obtain ⟨hbpp, hnplanes⟩ := formatInfo_fields s.hdr.bpp s.hdr.nplanes
  exact ⟨hbpp, hnplanes, issue_key_of_unsupported hnone⟩

/-- Settles O21: LEN and the byte at LEN - 769 decide what the PALLOAD step of IDX8 mode issues. -/
theorem markerIsChecked : Obligations.MarkerIsChecked := by
  intro s halone hstatus hmode
  rw [step_of_palload halone hstatus, palloadStep_of_idx8 hmode]
  exact ⟨issue_marker_of_short, fun hlen b hb hne => issue_marker_of_ne hlen hb hne, issue_marker_of_marker⟩

/-- Settles O22: the run of reads gives the last 768 bytes, and DECODE.INIT writes the rest. -/
theorem palmarkLoadsThePalette : Obligations.PalmarkLoadsThePalette := by
  intro s hwf hloaded
  refine ⟨fun hlen => ?_, exec_palmark_of_short⟩
  rw [exec_palmark_of_loaded hwf hloaded hlen, decodeInit_setPal, decodeInit_eq]

/-- Settles O23: neither load reads a pattern, and DECODE.INIT writes the rest. -/
theorem palloadWithoutMarker : Obligations.PalloadWithoutMarker := by
  intro s halone hstatus
  rw [step_of_palload halone hstatus]
  refine ⟨fun hmode => ⟨_, palloadStep_of_bp1 hmode, fun j hj => ?_, ?_⟩, fun hmode => ?_⟩
  · simp [bp1Palette]
  · rw [decodeInit_setPal, decodeInit_eq, if_pos hmode]
  · have hbp1 : s.mode ≠ .bp1 := by simp [hmode]
    rw [palloadStep_of_rgb24 hmode, decodeInit_eq, if_neg hbp1]

/-- Settles O24: each pattern by what it keeps. -/
theorem configurationFrame : Obligations.ConfigurationFrame := by
  intro i s t h
  refine ⟨?_, ?_, ?_⟩
  · rintro rfl
    obtain ⟨hkeeps, hends⟩ := exec_magic_keeps h
    rw [hkeeps]
    exact ⟨by simp [inByte], hends⟩
  · rintro (rfl | rfl | ⟨p, rfl⟩) <;> cases h <;> exact ⟨rfl, rfl⟩
  · rintro rfl
    obtain ⟨hlen, rfl⟩ | ⟨hlen, p, rfl⟩ := exec_palmark_cases h
    · exact ⟨by simp [inByte], .inl ⟨hlen, by simp⟩⟩
    · refine ⟨by simp [inByte], .inr ⟨hlen, ?_⟩⟩
      simp +contextual [pixByte]

end Sys2Proof.Machine
end

section
/-! PROOFS. What one step of the block keeps and where it leads: the inputs and the configuration stay (spec 20_memory.md
R74), the phases follow in order (10_state.md R38), and every raise has its cause and is precise (60_exceptions.md). -/

namespace Sys2Proof.Machine

section Steps

variable {s t : State}

/-! ### What a byte-step keeps -/

/-- The advance writes the counters, ACC and STATUS at most (R155). -/
theorem advance_keeps (s : State) : advance s = { s with
    bcnt := (advance s).bcnt, pln := (advance s).pln, row := (advance s).row, acc := (advance s).acc
    status := (advance s).status } := by
  unfold advance
  split
  · split <;> rfl
  · rfl

/-- The delivery of a byte writes RUNLEN, the counters, ACC, PIX and STATUS at most (R154). -/
theorem deliver_keeps (h : deliver s = .next t) : t = { s with
    runlen := s.runlen - 1#6, bcnt := t.bcnt, pln := t.pln, row := t.row, acc := t.acc, pix := t.pix
    status := t.status } := by
  obtain ⟨u, hu, rfl⟩ := deliver_next h
  obtain ⟨acc, pix, rfl⟩ : ∃ acc pix, u = { takeByte s with acc := acc, pix := pix } := ⟨_, _, sink_frame hu⟩
  rw [advance_pix]
  exact advance_keeps _

/-- A delivery stays in DECODE or ends the image (R155, R157). -/
theorem deliver_status (h : deliver s = .next t) : t.status = s.status ∨ t.status = .done := by
  obtain ⟨u, hu, rfl⟩ := deliver_next h
  have hstatus : u.status = s.status := by rw [sink_frame hu]; rfl
  rw [← hstatus]
  exact advance_status_cases u

/-- A byte-step writes no input, no configuration and no palette (R74). -/
theorem byteStep_keeps (hdecode : s.status = .decode) (h : byteStep s = .next t) : t = { s with
    runlen := t.runlen, runval := t.runval, bcnt := t.bcnt, pln := t.pln, row := t.row, cur := t.cur, acc := t.acc
    pix := t.pix, status := t.status, err := t.err, errinfo := t.errinfo } := by
  obtain ⟨n, v, c, -, -, ⟨-, hdeliver⟩ | rfl⟩ := byteStep_next hdecode h
  · rw [deliver_keeps hdeliver]
  · rfl

/-- Where a byte-step that does not raise delivers from: a state that differs in the active run and CUR only. -/
theorem byteStep_deliver (hdecode : s.status = .decode) (h : byteStep s = .next t) (ht : t.status ≠ .error) :
    ∃ n v c, s.cur ≤ c ∧ (s.cur ≤ s.len → c ≤ s.len) ∧
      deliver { s with runlen := n, runval := v, cur := c } = .next t := by
  obtain ⟨n, v, c, hc, hlen, ⟨-, hdeliver⟩ | rfl⟩ := byteStep_next hdecode h
  · exact ⟨n, v, c, hc, hlen, hdeliver⟩
  · exact absurd rfl ht

/-- How a byte-step raises: with no run active, after whole RUNs of count 0, at the end of the stream (R153, R159,
R220). -/
theorem byteStep_raise (hdecode : s.status = .decode) (h : byteStep s = .next t) (ht : t.status = .error) :
    s.runlen = 0#6 ∧ ∃ j v,
      (∀ i < j, inByte s (s.cur + 2 * i) = some 0xC0#8) ∧
      (j = 0 ∧ v = s.runval ∨ 0 < j ∧ inByte s (s.cur + 2 * j - 1) = some v) ∧
      AtStreamEnd { s with runval := v, cur := s.cur + 2 * j } ∧
      t = raise .truncatedStream 0#16 { s with runval := v, cur := s.cur + 2 * j } := by
  obtain ⟨s1, hfetch, h⟩ := andThen_eq_next.mp h
  split at h
  · next hdecode1 =>
    obtain hstatus | hstatus := deliver_status h
    · rw [hstatus, hdecode1] at ht; cases ht
    · rw [hstatus] at ht; cases ht
  · cases h
    exact fetchRun_raise hdecode hfetch ht (Nat.le_refl _)

/-! ### The PALLOAD step -/

/-- DECODE.INIT leads to DECODE, or to DONE at once when BPL is 0 (R150, R158). -/
theorem decodeInit_status_cases (s : State) :
    ((decodeInit s).status = .decode ∧ s.hdr.bpl ≠ 0#16) ∨ ((decodeInit s).status = .done ∧ s.hdr.bpl = 0#16) := by
  by_cases hbpl : s.hdr.bpl = 0#16 <;> simp [hbpl]

/-- What the PALLOAD step that goes on has done, with the causes of its raises (R127 to R130). -/
theorem palloadStep_cases (h : palloadStep s = .next t) :
    (s.mode = .idx8 ∧ s.len < 769 ∧ t = raise .truncatedStream 0#16 s) ∨
    (s.mode = .idx8 ∧ 769 ≤ s.len ∧ (∃ b, inByte s (s.len - 769) = some b ∧ b ≠ 12#8) ∧
      t = raise .missingPalette 0#16 s) ∨
    ((s.mode = .idx8 → 769 ≤ s.len ∧ inByte s (s.len - 769) = some 12#8) ∧ s.mode ≠ .none ∧
      ∃ p : Vector Byte 768, t = decodeInit (setPal p s)) := by
  obtain ⟨hmode, hmarker⟩ | ⟨hmode, rfl⟩ | ⟨hmode, rfl⟩ := palloadStep_next h
  · obtain ⟨hlen, rfl⟩ | ⟨hlen, hb, rfl⟩ | ⟨hlen, hb, hexec⟩ := issue_marker_cases hmarker
    · exact .inl ⟨hmode, hlen, rfl⟩
    · exact .inr (.inl ⟨hmode, hlen, hb, rfl⟩)
    · obtain ⟨hlen', -⟩ | ⟨-, p, rfl⟩ := exec_palmark_cases hexec
      · omega
      · exact .inr (.inr ⟨fun _ => ⟨hlen, hb⟩, by simp [hmode], p, rfl⟩)
  · exact .inr (.inr ⟨by simp [hmode], by simp [hmode], s.pal, rfl⟩)
  · exact .inr (.inr ⟨by simp [hmode], by simp [hmode], _, rfl⟩)

/-! ### What every step of the block keeps -/

/-- The block writes neither IN nor LEN (R29, R74). -/
theorem blockStep_keeps_input (h : blockStep s = .next t) :
    t.input = s.input ∧ t.len = s.len ∧ t.epoch = s.epoch ∧ t.host = s.host := by
  unfold blockStep at h
  split at h
  · cases h; exact ⟨rfl, rfl, rfl, rfl⟩
  · obtain ⟨-, rfl⟩ | ⟨-, -, hexec⟩ := issue_magic_cases h
    · exact ⟨rfl, rfl, rfl, rfl⟩
    · rw [(exec_magic_keeps hexec).1]; exact ⟨rfl, rfl, rfl, rfl⟩
  · obtain ⟨m, -, rfl⟩ | ⟨-, rfl⟩ := issueKey_next h <;> exact ⟨rfl, rfl, rfl, rfl⟩
  · obtain ⟨-, -, rfl⟩ | ⟨-, -, -, rfl⟩ | ⟨-, -, p, rfl⟩ := palloadStep_cases h <;> simp
  · next hdecode => rw [byteStep_keeps hdecode h]; exact ⟨rfl, rfl, rfl, rfl⟩
  · cases h; exact ⟨rfl, rfl, rfl, rfl⟩
  · cases h; exact ⟨rfl, rfl, rfl, rfl⟩

end Steps

/-! ### The obligations -/

/-- Settles O46: each phase by what its step writes. -/
theorem blockNeverWritesItsInputs : Obligations.BlockNeverWritesItsInputs := by
  intro s t halone h
  rw [step_of_alone halone] at h
  obtain ⟨hinput, hlen, hepoch, hhost⟩ := blockStep_keeps_input h
  refine ⟨hinput, hlen, hepoch, hhost.trans halone, fun hdecode => ?_⟩
  simp only [blockStep, hdecode] at h
  rw [byteStep_keeps hdecode h]
  exact ⟨rfl, rfl, rfl, rfl, rfl⟩

/-- Settles O31: with a run active the byte-step is one delivery. -/
theorem runsCrossBoundaries : Obligations.RunsCrossBoundaries := by
  intro s t halone hdecode hrun h
  rw [step_of_decode halone hdecode, byteStep_of_active hdecode hrun] at h
  have hstatus := deliver_status h
  rw [hdecode] at hstatus
  have hcount : (s.runlen - 1#6).toNat + 1 = s.runlen.toNat := by bv_omega
  rw [deliver_keeps h]
  exact ⟨hcount, rfl, rfl, hstatus⟩

/-- Settles O37: each phase by the states its step can end in. -/
theorem phasesFollowInOrder : Obligations.PhasesFollowInOrder := by
  intro s t halone h
  rw [step_of_alone halone] at h
  unfold blockStep at h
  cases hstatus : s.status <;> simp only [hstatus] at h ⊢
  case idle => cases h; exact hstatus
  case hdr =>
    obtain ⟨-, rfl⟩ | ⟨-, -, hexec⟩ := issue_magic_cases h
    · exact .inr rfl
    · obtain ⟨-, ⟨herror, -⟩ | ⟨hdispatch, -⟩⟩ := exec_magic_keeps hexec
      · exact .inr herror
      · exact .inl hdispatch
  case dispatch =>
    obtain ⟨m, -, rfl⟩ | ⟨-, rfl⟩ := issueKey_next h
    · exact .inl rfl
    · exact .inr rfl
  case palload =>
    obtain ⟨-, -, rfl⟩ | ⟨-, -, -, rfl⟩ | ⟨-, -, p, rfl⟩ := palloadStep_cases h
    · exact .inr (.inr rfl)
    · exact .inr (.inr rfl)
    · exact (decodeInit_status_cases (setPal p s)).imp_right .inl
  case decode =>
    obtain ⟨n, v, c, -, -, ⟨-, hdeliver⟩ | rfl⟩ := byteStep_next hstatus h
    · obtain hkeep | hdone := deliver_status hdeliver
      · exact .inl (hkeep.trans hstatus)
      · exact .inr (.inl hdone)
    · exact .inr (.inr rfl)
  case done => cases h; exact hstatus
  case error => cases h; exact hstatus

/-! ### Exceptions -/

/-- How a step of the block raises: its phase and cause, and the state its error is written into (R210, R220). -/
inductive Raises (s t : State) : Prop where
  | invalidMagic (hstatus : s.status = .hdr) (hcause : BadMagic s) (ht : t = raise .invalidMagic 0#16 s)
  | shortHeader (hstatus : s.status = .hdr) (hmagic : inByte s 0 = some 10#8) (hlen : s.len < 128)
      (ht : t = raise .truncatedStream 0#16 s)
  | invalidDimensions (hd : Header) (hstatus : s.status = .hdr) (hlen : 128 ≤ s.len) (hread : readHeader s = .ok hd)
      (hbox : hd.xmax.toNat < hd.xmin.toNat ∨ hd.ymax.toNat < hd.ymin.toNat)
      (ht : t = raise .invalidDimensions 0#16
        (setDims (dimension hd.xmin hd.xmax) (dimension hd.ymin hd.ymax) (setHeader hd s)))
  | unsupportedFormat (hstatus : s.status = .dispatch) (hpair : ∀ m, ¬ SupportedPair s.hdr.bpp s.hdr.nplanes m)
      (ht : t = raise .unsupportedFormat (formatInfo s.hdr.bpp s.hdr.nplanes) s)
  | shortPalette (hstatus : s.status = .palload) (hmode : s.mode = .idx8) (hlen : s.len < 769)
      (ht : t = raise .truncatedStream 0#16 s)
  | missingPalette (hstatus : s.status = .palload) (hmode : s.mode = .idx8) (hlen : 769 ≤ s.len)
      (hmarker : ∃ b, inByte s (s.len - 769) = some b ∧ b ≠ 12#8) (ht : t = raise .missingPalette 0#16 s)
  | truncatedStream (j : Nat) (v : Byte) (hstatus : s.status = .decode) (hrun : s.runlen = 0#6)
      (hzero : ∀ i < j, inByte s (s.cur + 2 * i) = some 0xC0#8)
      (hlast : j = 0 ∧ v = s.runval ∨ 0 < j ∧ inByte s (s.cur + 2 * j - 1) = some v)
      (hend : AtStreamEnd { s with runval := v, cur := s.cur + 2 * j })
      (ht : t = raise .truncatedStream 0#16 { s with runval := v, cur := s.cur + 2 * j })

theorem blockStep_raises {s t : State} (h : blockStep s = .next t) (hs : s.status ≠ .error) (ht : t.status = .error) :
    Raises s t := by
  unfold blockStep at h
  cases hstatus : s.status <;> simp only [hstatus] at h
  case idle => cases h; rw [hstatus] at ht; cases ht
  case hdr =>
    obtain ⟨hbad, rfl⟩ | ⟨-, hmagic, hexec⟩ := issue_magic_cases h
    · exact .invalidMagic hstatus hbad rfl
    · obtain ⟨hlen, rfl⟩ | ⟨hlen, hd, hread, ⟨hdims, rfl⟩ | ⟨-, -, rfl⟩⟩ := execMagic_next hexec
      · exact .shortHeader hstatus hmagic hlen rfl
      · exact .invalidDimensions hd hstatus hlen hread
          (hdims.imp (dimension_nonpos_iff _ _).mp (dimension_nonpos_iff _ _).mp) rfl
      · cases ht
  case dispatch =>
    obtain ⟨m, -, rfl⟩ | ⟨hpair, rfl⟩ := issueKey_next h
    · cases ht
    · exact .unsupportedFormat hstatus hpair rfl
  case palload =>
    obtain ⟨hmode, hlen, rfl⟩ | ⟨hmode, hlen, hmarker, rfl⟩ | ⟨-, -, p, rfl⟩ := palloadStep_cases h
    · exact .shortPalette hstatus hmode hlen rfl
    · exact .missingPalette hstatus hmode hlen hmarker rfl
    · obtain ⟨hinit, -⟩ | ⟨hinit, -⟩ := decodeInit_status_cases (setPal p s) <;> rw [hinit] at ht <;> cases ht
  case decode =>
    obtain ⟨hrun, j, v, hzero, hlast, hend, rfl⟩ := byteStep_raise hstatus h ht
    exact .truncatedStream j v hstatus hrun hzero hlast hend rfl
  case done => cases h; rw [hstatus] at ht; cases ht
  case error => exact absurd hstatus hs

/-- Settles O36: the ways a step can raise name the causes. -/
theorem everyErrorHasItsCause : Obligations.EveryErrorHasItsCause := by
  intro s t halone h hs ht
  rw [step_of_alone halone] at h
  cases blockStep_raises h hs ht with
  | invalidMagic hstatus hcause ht => subst ht; exact ⟨fun _ => rfl, hstatus, hcause.imp_right And.right⟩
  | shortHeader hstatus hmagic hlen ht => subst ht; exact ⟨fun _ => rfl, .inl ⟨hstatus, hlen, hmagic⟩⟩
  | invalidDimensions hd hstatus hlen _ hbox ht => subst ht; exact ⟨fun _ => rfl, hstatus, hlen, hbox⟩
  | unsupportedFormat hstatus hpair ht =>
    subst ht
    exact ⟨fun hne => absurd rfl hne, hstatus, hpair, formatInfo_fields _ _⟩
  | shortPalette hstatus hmode hlen ht => subst ht; exact ⟨fun _ => rfl, .inr (.inl ⟨hstatus, hmode, hlen⟩)⟩
  | missingPalette hstatus hmode hlen hmarker ht => subst ht; exact ⟨fun _ => rfl, hstatus, hmode, hlen, hmarker⟩
  | truncatedStream j v hstatus hrun _ _ hend ht =>
    subst ht
    exact ⟨fun _ => rfl, .inr (.inr ⟨hstatus, hrun, hend⟩)⟩

/-- Settles O55: the state an error is written into is the state before the step but for the header load and the
skipped RUNs; from the latter the stream ends again. -/
theorem exceptionsArePrecise : Obligations.ExceptionsArePrecise := by
  intro s t halone h hs ht
  rw [step_of_alone halone] at h
  have halone' : t.host = [] := (blockStep_keeps_input h).2.2.2.trans halone
  refine ⟨by rw [step_of_alone halone', blockStep_of_error ht], ?_⟩
  cases blockStep_raises h hs ht with
  | invalidMagic hstatus _ ht => subst ht; exact ⟨s, rfl, fun _ _ => rfl, nofun, by simp [hstatus]⟩
  | shortHeader hstatus _ _ ht => subst ht; exact ⟨s, rfl, fun _ _ => rfl, nofun, by simp [hstatus]⟩
  | invalidDimensions hd hstatus _ hread _ ht =>
    subst ht
    exact ⟨_, rfl, fun hne => absurd rfl hne, fun _ => ⟨hstatus, hread, rfl⟩, by simp [hstatus]⟩
  | unsupportedFormat hstatus _ ht => subst ht; exact ⟨s, rfl, fun _ _ => rfl, nofun, by simp [hstatus]⟩
  | shortPalette hstatus _ _ ht => subst ht; exact ⟨s, rfl, fun _ _ => rfl, nofun, by simp [hstatus]⟩
  | missingPalette hstatus _ _ _ ht => subst ht; exact ⟨s, rfl, fun _ _ => rfl, nofun, by simp [hstatus]⟩
  | truncatedStream j v hstatus hrun hzero hlast hend ht =>
    subst ht
    refine ⟨_, rfl, fun _ hne => absurd hstatus hne, nofun, fun _ => ⟨rfl, ?_, j, hzero, hlast, rfl, hend⟩⟩
    rw [step_of_decode (s := { s with runval := v, cur := s.cur + 2 * j }) halone hstatus,
      byteStep_of_atStreamEnd (s := { s with runval := v, cur := s.cur + 2 * j }) hrun hend]

end Sys2Proof.Machine
end

section
/-! PROOFS. The host (spec 70_reset_and_hazards.md): reset in every phase (R250), START (R120), writes (R257, R264) and
reads (R258, R264). -/

namespace Sys2Proof.Machine

/-- Settles O39: the move is reset, whatever the phase. -/
theorem resetIsTakenInEveryPhase : Obligations.ResetIsTakenInEveryPhase := by
  intro s rest hhost
  exact ⟨_, step_of_move hhost, rfl, rfl, rfl, rfl, rfl, rfl, fun _ => rfl, rfl, rfl, rfl, rfl, rfl⟩

/-- START is ignored while BUSY (R120). -/
theorem hostMove_start_of_busy {s : State} (h : busy s = true) : hostMove .start s = .next s := by
  simp [hostMove, h]

/-- START is taken while the block is not busy (R120). -/
theorem hostMove_start_of_not_busy {s : State} (h : busy s = false) : hostMove .start s = .next (start s) := by
  simp [hostMove, h, Config.isAddress, Config.addressWidth]

/-- Settles O40: BUSY decides whether START is taken. -/
theorem startBeginsOnlyWhenNotBusy : Obligations.StartBeginsOnlyWhenNotBusy := by
  intro s rest hhost
  rw [step_of_move hhost]
  refine ⟨fun hbusy => hostMove_start_of_busy hbusy, fun hbusy => ⟨_, hostMove_start_of_not_busy hbusy, ?_⟩⟩
  exact ⟨rfl, rfl, rfl, rfl, rfl, rfl, fun _ => rfl, rfl, rfl⟩

/-- Settles O41: BUSY decides whether a write is taken, and a taken write stores its byte or LEN. -/
theorem hostWritesOnlyWhenNotBusy : Obligations.HostWritesOnlyWhenNotBusy := by
  intro s rest a n b
  have hbusy : busy (setHost rest s) = busy s := rfl
  refine ⟨fun hidle => ⟨fun hhost => ⟨loadByte a b (setHost rest s), ?_, rfl, ?_⟩, fun hhost => ?_⟩,
    fun hrun => ⟨fun hhost => ?_, fun hhost => ?_⟩⟩
  · simp [step_of_move hhost, hostMove, hbusy, hidle]
  · exact Memory.read_write s.input a b
  · rw [step_of_move hhost, hostMove, hbusy, hidle, if_neg Bool.false_ne_true]
    rfl
  · simp [step_of_move hhost, hostMove, hbusy, hrun]
  · simp [step_of_move hhost, hostMove, hbusy, hrun]

/-! ### Reads (R258, R264) -/

section Reads

variable {s : State}

theorem hostReadReg_of_readable {r : HostReg} (h : readable s.status r = true) :
    hostReadReg r s = some (regValue s r) := by
  rw [hostReadReg, if_pos h]

theorem hostReadReg_of_not_readable {r : HostReg} (h : readable s.status r = false) : hostReadReg r s = none := by
  simp [hostReadReg, h]

/-- In DONE every register is read. -/
theorem readable_done (r : HostReg) : readable .done r = true := by
  cases r <;> rfl

/-- In DONE a read gives the register's content. -/
theorem hostReadReg_of_done (h : s.status = .done) (r : HostReg) : hostReadReg r s = some (regValue s r) :=
  hostReadReg_of_readable (h ▸ readable_done r)

/-- Outside DONE a read of a register but STATUS, ERR and ERRINFO has no value. -/
theorem hostReadReg_of_not_done {r : HostReg} (h : s.status ≠ .done) (hstatus : r ≠ .status) (herr : r ≠ .err)
    (hinfo : r ≠ .errinfo) : hostReadReg r s = none := by
  refine hostReadReg_of_not_readable (Bool.eq_false_iff.mpr fun hread => ?_)
  obtain hr | hr | hr := readable_of_ne_done h hread
  · exact hstatus hr
  · exact herr hr
  · exact hinfo hr

/-- ERR and ERRINFO are read whenever the block is not busy (R258). -/
theorem hostReadReg_error {r : HostReg} (hr : r = .err ∨ r = .errinfo) :
    hostReadReg r s = if busy s then none else some (regValue s r) := by
  have hread : readable s.status r = !busy s := by obtain rfl | rfl := hr <;> rfl
  cases hbusy : busy s <;> simp [hostReadReg, hread, hbusy]

/-- While BUSY no read but that of STATUS has a value (R258). -/
theorem hostReadReg_of_busy {r : HostReg} (hbusy : busy s = true) (hr : r ≠ .status) : hostReadReg r s = none := by
  by_cases herr : r = .err ∨ r = .errinfo
  · rw [hostReadReg_error herr, if_pos hbusy]
  · rw [not_or] at herr
    have hdone : s.status ≠ .done := fun h => by simp [busy, h, Phase.busy] at hbusy
    exact hostReadReg_of_not_done hdone hr herr.1 herr.2

/-- The busy phases (R27). -/
theorem busy_eq_true_iff :
    busy s = true ↔ s.status = .hdr ∨ s.status = .dispatch ∨ s.status = .palload ∨ s.status = .decode := by
  cases h : s.status <;> simp [busy, Phase.busy, h]

end Reads

/-- Settles O42: the phase decides which reads have a value, and the codes are those of R28 and R210. -/
theorem hostReadsAfterTheEnd : Obligations.HostReadsAfterTheEnd := by
  intro s
  refine ⟨busy_eq_true_iff, ?_, ?_, hostReadReg_error (.inr rfl), fun r => hostReadReg_of_busy,
    fun r => hostReadReg_of_not_done, fun hdone => ?_, fun _ => rfl, fun _ => rfl⟩
  · rw [hostReadReg_of_readable (r := .status) rfl, regValue]
    cases s.status <;> rfl
  · rw [hostReadReg_error (.inl rfl), regValue]
    cases s.err <;> rfl
  · simp only [hostReadReg_of_done hdone, regValue, true_and]
    cases s.mode <;> simp [modeCode]

end Sys2Proof.Machine
end

section
/-! PROOFS. SINK.BP1 (spec 42_pixel_palette.md R183, R185): what its eight columns do to ACC and to PIX, and what the
delivery of a byte leaves unchanged in every mode. -/

namespace Sys2Proof.Machine

/-! ### Accumulators (R43, R185) -/

/-- The bit of column `i` of a byte, at its plane's place (R183, R185). -/
def planeBit (v : Byte) (i plane : Nat) : BitVec 4 :=
  (if columnBit Config.bitOrder v i then 1#4 else 0#4) <<< plane

theorem getLsbD_planeBit (v : Byte) (i plane : Nat) {q : Nat} (hq : q < 4) :
    (planeBit v i plane).getLsbD q = (q == plane && columnBit Config.bitOrder v i) := by
  rw [planeBit, BitVec.getLsbD_shiftLeft]
  cases columnBit Config.bitOrder v i
  · simp
  · by_cases hlt : q < plane
    · simp [hlt, Nat.ne_of_lt hlt]
    · have heq : q - plane = 0 ↔ q = plane := by omega
      rw [if_pos rfl, BitVec.getLsbD_one, Bool.eq_iff_iff]
      simp [hlt, hq, heq]

/-- OR-ing the bit of a column into ACC changes that column alone. -/
theorem accAt_accOr (acc : List (BitVec 4)) {x : Nat} (y plane : Nat) (v : Byte) (i : Nat) (hx : x < acc.length) :
    accAt (accOr acc y plane (columnBit Config.bitOrder v i)) x =
      if x = y then accAt acc x ||| planeBit v i plane else accAt acc x := by
  unfold accOr
  by_cases hxy : x = y
  · subst hxy
    simp [accAt, hx, planeBit]
  · simp [accAt, List.getElem?_set_ne (Ne.symm hxy), hxy]

theorem accOr_length (acc : List (BitVec 4)) (y plane : Nat) (bit : Bool) :
    (accOr acc y plane bit).length = acc.length :=
  List.length_set

/-! ### Pixels -/

/-- The byte of channel `c` of a pixel of palette entry `idx`: its colour, or A (R181, R183, R188). -/
def pixelByte (pal : Vector Byte 768) (idx : Byte) (c : Nat) : Byte :=
  if h : c < 3 then palColour pal idx ⟨c, h⟩ else Config.alpha

/-- Writing pixel `p` gives its four bytes and keeps every other pixel. -/
theorem pixelWritten_read_pixel (m : Memory) (p : Nat) (pal : Vector Byte 768) (idx : Byte) (a : Nat) :
    (pixelWritten m (p * 4) pal idx).read a =
      if a / 4 = p then some (pixelByte pal idx (a % 4)) else m.read a := by
  rw [pixelWritten_read]
  by_cases hp : a / 4 = p
  · rw [if_pos hp]
    obtain ha | ha | ha | ha : a = p * 4 ∨ a = p * 4 + 1 ∨ a = p * 4 + 2 ∨ a = p * 4 + 3 := by omega
    all_goals simp [ha, pixelByte, Nat.add_mod]
  · rw [if_neg hp, if_neg (by omega), if_neg (by omega), if_neg (by omega), if_neg (by omega)]

/-- The state with other accumulators and another PIX: what a sink writes (R180). -/
def setPixels (acc : List (BitVec 4)) (m : Memory) (s : State) : State := { s with acc := acc, pix := some m }

section Bp1

variable {s t : State} {m : Memory} {v : Byte}

@[simp] theorem setPixels_acc (acc : List (BitVec 4)) (m : Memory) (s : State) : (setPixels acc m s).acc = acc := rfl
@[simp] theorem setPixels_pix (acc : List (BitVec 4)) (m : Memory) (s : State) :
    (setPixels acc m s).pix = some m := rfl

theorem setPixels_self (h : s.pix = some m) : setPixels s.acc m s = s := by
  rw [setPixels, ← h]

/-- The pixel of column `x` of the current row (R68). -/
def pixelOf (s : State) (x : Nat) : Nat := s.row.toNat * s.width.toNat + x

theorem pixAddr_eq_pixelOf (s : State) (x : Nat) : pixAddr s x = pixelOf s x * 4 := rfl

/-- PIX after one column of the image, when ACC is `acc`: with the last plane its pixel is written (R183). -/
def columnPix (s : State) (m : Memory) (acc : List (BitVec 4)) (x : Nat) : Memory :=
  if lastPlane s then pixelWritten m (pixelOf s x * 4) s.pal (accIndex acc x) else m

/-- ACC after one column of the image (R185). -/
def columnAcc (s : State) (v : Byte) (i : Nat) : List (BitVec 4) :=
  accOr s.acc (bp1Column s.bcnt i) s.pln.toNat (columnBit Config.bitOrder v i)

/-- A column of SINK.BP1 inside the image, with PIX present (R183). -/
theorem sinkBp1Column_of_inImage {i : Nat} (hpix : s.pix = some m) (hrow : (s.row.toNat : Int) < s.height)
    (hcol : (bp1Column s.bcnt i : Int) < s.width) :
    sinkBp1Column v i s =
      .next (setPixels (columnAcc s v i) (columnPix s m (columnAcc s v i) (bp1Column s.bcnt i)) s) := by
  rw [sinkBp1Column, if_pos (inImage_eq_true_iff.mpr hcol)]
  cases hlast : lastPlane s
  · simp [columnPix, hlast, setPixels, setAcc, columnAcc, ← hpix]
  · simp only [if_true, columnPix, hlast]
    exact writePixel_ok (s := setAcc (columnAcc s v i) s) _ hpix (pixAddr_inside (s := setAcc _ s) hcol hrow)

/-- `acc` is ACC after the columns `cols` of the byte `v` (R185). -/
structure AccAfter (s : State) (v : Byte) (cols : List Nat) (acc : List (BitVec 4)) : Prop where
  length : acc.length = s.acc.length
  accAt_eq : ∀ x < s.width.toNat, accAt acc x =
    if x ∈ cols then accAt s.acc x ||| planeBit v (x - 8 * s.bcnt.toNat) s.pln.toNat else accAt s.acc x

/-- `m'` is PIX after the columns `cols` of a byte that leave ACC as `acc`: with the last plane their pixels are written
(R183). -/
def PixAfter (s : State) (m : Memory) (cols : List Nat) (acc : List (BitVec 4)) (m' : Memory) : Prop :=
  ∀ a, (lastPlane s = false → m'.read a = m.read a) ∧
    (lastPlane s = true →
      (∀ x ∈ cols, x < s.width.toNat → a / 4 = pixelOf s x →
        m'.read a = some (pixelByte s.pal (accIndex acc x) (a % 4))) ∧
      ((∀ x ∈ cols, x < s.width.toNat → a / 4 ≠ pixelOf s x) → m'.read a = m.read a))

theorem bp1Column_sub (bcnt : BitVec 16) (i : Nat) : bp1Column bcnt i - 8 * bcnt.toNat = i :=
  Nat.add_sub_cancel_left _ _

/-- One more column of the image, before columns that do not hold it. -/
theorem AccAfter.cons {i : Nat} {cols : List Nat} {acc : List (BitVec 4)} (hlength : s.acc.length = s.width.toNat)
    (hfresh : bp1Column s.bcnt i ∉ cols) (h : AccAfter (setPixels (columnAcc s v i) m s) v cols acc) :
    AccAfter s v (bp1Column s.bcnt i :: cols) acc where
  length := h.length.trans (accOr_length ..)
  accAt_eq x hx := by
    have hrest := h.accAt_eq x hx
    rw [setPixels_acc, columnAcc, accAt_accOr s.acc _ _ _ _ (by omega)] at hrest
    by_cases hxi : x = bp1Column s.bcnt i
    · subst hxi
      rw [hrest, if_neg hfresh, if_pos rfl, if_pos List.mem_cons_self, bp1Column_sub]
    · rw [hrest, if_neg hxi]
      simp only [List.mem_cons, hxi, false_or]
      rfl

/-- One more column beyond the image. -/
theorem AccAfter.cons_padding {y : Nat} {cols : List Nat} {acc : List (BitVec 4)} (hpad : s.width ≤ y)
    (h : AccAfter s v cols acc) : AccAfter s v (y :: cols) acc where
  length := h.length
  accAt_eq x hx := by
    have hxy : x ≠ y := by omega
    rw [h.accAt_eq x hx]
    simp only [List.mem_cons, hxy, false_or]

/-- The accumulator of a column is final once it is processed. -/
theorem AccAfter.accIndex_eq {y : Nat} {cols : List Nat} {acc : List (BitVec 4)} (hy : y < s.width.toNat)
    (hfresh : y ∉ cols) (h : AccAfter s v cols acc) : accIndex acc y = accIndex s.acc y := by
  rw [accIndex, accIndex, h.accAt_eq y hy, if_neg hfresh]

theorem columnPix_read (m : Memory) (acc : List (BitVec 4)) (x a : Nat) : (columnPix s m acc x).read a =
    if lastPlane s = true ∧ a / 4 = pixelOf s x then some (pixelByte s.pal (accIndex acc x) (a % 4)) else m.read a := by
  unfold columnPix
  cases lastPlane s
  · simp
  · simp [pixelWritten_read_pixel]

theorem PixAfter.cons {y : Nat} {cols : List Nat} {acc acc1 : List (BitVec 4)} {m' : Memory}
    (hy : y < s.width.toNat)
    (hfinal : accIndex acc y = accIndex acc1 y) (hfresh : y ∉ cols)
    (h : PixAfter (setPixels acc1 (columnPix s m acc1 y) s) (columnPix s m acc1 y) cols acc m') :
    PixAfter s m (y :: cols) acc m' := by
  intro a
  obtain ⟨hother, hlast⟩ := h a
  have hinj (x : Nat) (hx : x ∈ cols) : pixelOf s x ≠ pixelOf s y := fun heq =>
    hfresh (Nat.add_left_cancel heq ▸ hx)
  refine ⟨fun hp => ?_, fun hp => ?_⟩
  · rw [hother hp, columnPix_read, if_neg (by simp [hp])]
  · obtain ⟨hhit, hmiss⟩ := hlast hp
    refine ⟨fun x hx hlt ha => ?_, fun hnone => ?_⟩
    · obtain rfl | hx := List.mem_cons.mp hx
      · rw [hmiss fun x' hx' _ ha' => hinj x' hx' (ha'.symm.trans ha), columnPix_read, if_pos ⟨hp, ha⟩, hfinal]
      · exact hhit x hx hlt ha
    · obtain ⟨hne, hcols⟩ := List.forall_mem_cons.mp hnone
      rw [hmiss hcols, columnPix_read, if_neg fun hat => hne hy hat.2]

theorem PixAfter.cons_padding {y : Nat} {cols : List Nat} {acc : List (BitVec 4)} {m' : Memory} (hpad : s.width ≤ y)
    (h : PixAfter s m cols acc m') : PixAfter s m (y :: cols) acc m' := by
  intro a
  obtain ⟨hother, hlast⟩ := h a
  refine ⟨hother, fun hp => ⟨List.forall_mem_cons.mpr ⟨fun hlt => ?_, (hlast hp).1⟩, fun hnone => ?_⟩⟩
  · omega
  · exact (hlast hp).2 (List.forall_mem_cons.mp hnone).2

/-- What the columns of a byte do, one after the other (R183). -/
theorem sinkBp1Columns_spec {is : List Nat} (hnodup : is.Nodup) (hpix : s.pix = some m)
    (hlength : s.acc.length = s.width.toNat) (hrow : (s.row.toNat : Int) < s.height) :
    ∃ acc m', sinkBp1Columns v is s = .next (setPixels acc m' s) ∧
      AccAfter s v (is.map (bp1Column s.bcnt)) acc ∧ PixAfter s m (is.map (bp1Column s.bcnt)) acc m' := by
  induction is generalizing s m with
  | nil =>
    refine ⟨s.acc, m, by rw [setPixels_self hpix]; rfl, ⟨rfl, by simp⟩, fun a => by simp⟩
  | cons i is ih =>
    obtain ⟨hi, hnodup⟩ := List.nodup_cons.mp hnodup
    have hinj : Function.Injective (bp1Column s.bcnt) := fun _ _ h => Nat.add_left_cancel h
    have hfresh : bp1Column s.bcnt i ∉ is.map (bp1Column s.bcnt) := fun h =>
      hi ((List.mem_map_of_injective hinj).mp h)
    rw [sinkBp1Columns, List.map_cons]
    by_cases hcol : (bp1Column s.bcnt i : Int) < s.width
    · have hlt : bp1Column s.bcnt i < s.width.toNat := by omega
      rw [sinkBp1Column_of_inImage hpix hrow hcol, andThen_next]
      obtain ⟨acc, m', hrest, hacc, hread⟩ := ih (s := setPixels (columnAcc s v i) _ s) hnodup
        (setPixels_pix ..) ((accOr_length ..).trans hlength) hrow
      have hfinal : accIndex acc (bp1Column s.bcnt i) = accIndex (columnAcc s v i) (bp1Column s.bcnt i) :=
        AccAfter.accIndex_eq (s := setPixels (columnAcc s v i) _ s) hlt hfresh hacc
      exact ⟨acc, m', hrest, hacc.cons hlength hfresh, hread.cons hlt hfinal hfresh⟩
    · have hpad : s.width ≤ bp1Column s.bcnt i := not_lt.mp hcol
      rw [sinkBp1Column_of_padding hpad, andThen_next]
      obtain ⟨acc, m', hrest, hacc, hread⟩ := ih hnodup hpix hlength hrow
      exact ⟨acc, m', hrest, hacc.cons_padding hpad, hread.cons_padding hpad⟩

/-- A byte at BCNT covers the columns whose number divided by 8 is BCNT (R183). -/
theorem mem_bp1Columns (bcnt : BitVec 16) (x : Nat) :
    x ∈ (List.range 8).map (bp1Column bcnt) ↔ x / 8 = bcnt.toNat := by
  simp only [List.mem_map, List.mem_range, bp1Column]
  refine ⟨fun ⟨i, hi, hx⟩ => by omega, fun hx => ⟨x % 8, by omega, by omega⟩⟩

/-- The bits of the accumulators after the eight columns of a byte (R185). -/
theorem AccAfter.getLsbD {acc : List (BitVec 4)} (h : AccAfter s v ((List.range 8).map (bp1Column s.bcnt)) acc)
    {x q : Nat} (hx : x < s.width.toNat) (hq : q < 4) : (accAt acc x).getLsbD q =
      ((accAt s.acc x).getLsbD q ||
        (x / 8 == s.bcnt.toNat && q == s.pln.toNat && columnBit Config.bitOrder v (x % 8))) := by
  rw [h.accAt_eq x hx]
  by_cases hcol : x / 8 = s.bcnt.toNat
  · have hbit : x - 8 * s.bcnt.toNat = x % 8 := by omega
    rw [if_pos ((mem_bp1Columns _ _).mpr hcol), BitVec.getLsbD_or, getLsbD_planeBit _ _ _ hq, hbit]
    simp [hcol]
  · rw [if_neg (mt (mem_bp1Columns _ _).mp hcol)]
    simp [hcol]

/-- What SINK.BP1 does with PIX present and the accumulators of the scanline (R183, R185). -/
theorem sinkBp1_spec (hpix : s.pix = some m) (hlength : s.acc.length = s.width.toNat)
    (hrow : (s.row.toNat : Int) < s.height) :
    ∃ acc m', sinkBp1 v s = .next (setPixels acc m' s) ∧
      AccAfter s v ((List.range 8).map (bp1Column s.bcnt)) acc ∧
      PixAfter s m ((List.range 8).map (bp1Column s.bcnt)) acc m' :=
  sinkBp1_eq_range (v := v) (s := s) ▸ sinkBp1Columns_spec List.nodup_range hpix hlength hrow

end Bp1

/-- LAST_PLANE as a fact of numbers (R27). -/
theorem lastPlane_iff (s : State) : lastPlane s = true ↔ s.pln.toNat + 1 = s.hdr.nplanes.toNat :=
  beq_iff_eq

/-- Settles O27: the eight columns one after the other; BIT_ORDER gives the bit of a column. -/
theorem bp1SinkAccumulatesAndResolves : Obligations.Bp1SinkAccumulatesAndResolves := by
  intro s v m hmode hpix hlength hrow
  rw [sink_of_bp1 hmode]
  obtain ⟨acc, m', hsink, hacc, hread⟩ := sinkBp1_spec (v := v) hpix hlength hrow
  refine ⟨_, hsink, rfl, hacc.length, fun x hx q hq => hacc.getLsbD hx hq, fun hplane a => ?_, fun hplane a => ⟨?_, ?_⟩⟩
  · rw [pixByte_of_pix_some rfl, pixByte_of_pix_some hpix]
    exact (hread a).1 (Bool.eq_false_iff.mpr (mt (lastPlane_iff s).mp hplane))
  · intro x hx hcol ha
    rw [pixByte_of_pix_some rfl, ((hread a).2 ((lastPlane_iff s).mpr hplane)).1 x ((mem_bp1Columns _ _).mpr hcol) hx ha]
    unfold pixelByte
    split <;> rfl
  · intro hnone
    rw [pixByte_of_pix_some rfl, pixByte_of_pix_some hpix]
    exact ((hread a).2 ((lastPlane_iff s).mpr hplane)).2 fun x hx hlt => hnone x hlt ((mem_bp1Columns _ _).mp hx)

/-! ### The frame of a delivery -/

section Frame

variable {s t : State} {v : Byte}

/-- A column of SINK.BP1 that goes on keeps every byte of PIX outside its pixel. -/
theorem sinkBp1Column_pixByte {i a : Nat} (h : sinkBp1Column v i s = .next t)
    (ha : ¬ (pixAddr s (bp1Column s.bcnt i) ≤ a ∧ a < pixAddr s (bp1Column s.bcnt i) + 4)) :
    pixByte t a = pixByte s a := by
  obtain ⟨-, rfl⟩ | ⟨-, -, rfl⟩ | ⟨-, -, m, hm, -, rfl⟩ := sinkBp1Column_next h
  · rfl
  · rfl
  · rw [pixByte_of_pix_some rfl, pixByte_of_pix_some hm, pixAddr_eq_pixelOf, pixelWritten_read_pixel, if_neg]
    rw [pixAddr_eq_pixelOf] at ha
    omega

theorem sinkBp1Columns_pixByte {is : List Nat} {a : Nat} (h : sinkBp1Columns v is s = .next t)
    (ha : ∀ i ∈ is, ¬ (pixAddr s (bp1Column s.bcnt i) ≤ a ∧ a < pixAddr s (bp1Column s.bcnt i) + 4)) :
    pixByte t a = pixByte s a := by
  induction is generalizing s with
  | nil => cases h; rfl
  | cons i is ih =>
    obtain ⟨s1, h1, h⟩ := andThen_eq_next.mp h
    obtain ⟨hi, his⟩ := List.forall_mem_cons.mp ha
    rw [← sinkBp1Column_pixByte h1 hi]
    refine ih h ?_
    obtain ⟨-, rfl⟩ | ⟨-, -, rfl⟩ | ⟨-, -, m, -, -, rfl⟩ := sinkBp1Column_next h1 <;> exact his

/-- SINK.IDX8 keeps every byte of PIX outside the pixel at BCNT (R181). -/
theorem sinkIdx8_pixByte {a : Nat} (h : sinkIdx8 v s = .next t)
    (ha : ¬ (pixAddr s s.bcnt.toNat ≤ a ∧ a < pixAddr s s.bcnt.toNat + 4)) : pixByte t a = pixByte s a := by
  obtain ⟨-, rfl⟩ | ⟨-, m, hm, -, rfl⟩ := sinkIdx8_next h
  · rfl
  · rw [pixByte_of_pix_some rfl, pixByte_of_pix_some hm, pixAddr_eq_pixelOf, pixelWritten_read_pixel, if_neg]
    rw [pixAddr_eq_pixelOf] at ha
    omega

/-- SINK.RGB24 keeps every byte of PIX but the channel of its plane and, with plane 2, alpha (R182, R188). -/
theorem sinkRgb24_pixByte {a : Nat} (h : sinkRgb24 v s = .next t)
    (hchannel : a ≠ pixAddr s s.bcnt.toNat + s.pln.toNat)
    (halpha : ¬ (s.pln = 2#3 ∧ a = pixAddr s s.bcnt.toNat + 3)) : pixByte t a = pixByte s a := by
  obtain ⟨-, rfl⟩ | ⟨-, m, hm, -, ⟨-, rfl⟩ | ⟨hplane, -, rfl⟩⟩ := sinkRgb24_next h
  · rfl
  · rw [pixByte_of_pix_some rfl, pixByte_of_pix_some hm, Memory.read_write_other _ _ hchannel]
  · rw [pixByte_of_pix_some rfl, pixByte_of_pix_some hm,
      Memory.read_write_other _ _ fun ha => halpha ⟨hplane, ha⟩, Memory.read_write_other _ _ hchannel]

/-- A sink but SINK.BP1 keeps ACC. -/
theorem sink_acc (hmode : s.mode ≠ .bp1) (h : sink v s = .next t) : t.acc = s.acc := by
  cases hm : s.mode with
  | none => simp [sink, hm] at h
  | idx8 =>
    rw [sink_of_idx8 hm] at h
    obtain ⟨-, rfl⟩ | ⟨-, m, -, -, rfl⟩ := sinkIdx8_next h <;> rfl
  | rgb24 =>
    rw [sink_of_rgb24 hm] at h
    obtain ⟨-, rfl⟩ | ⟨-, m, -, -, ⟨-, rfl⟩ | ⟨-, -, rfl⟩⟩ := sinkRgb24_next h <;> rfl
  | bp1 => exact absurd hm hmode

/-- The advance keeps ACC outside BP1 mode (R155). -/
theorem advance_acc (hmode : s.mode ≠ .bp1) : (advance s).acc = s.acc := by
  unfold advance
  split
  · split
    · simp [hmode]
    · rfl
  · rfl

end Frame

/-- Settles O29: a delivery is the sink of its mode and the advance, which writes no PIX. -/
theorem deliveryFrame : Obligations.DeliveryFrame := by
  intro s t h
  obtain ⟨u, hu, ht⟩ := deliver_next h
  have hpix (a : Nat) : pixByte t a = pixByte u a := by rw [ht, pixByte, advance_pix, pixByte]
  have hacc (hmode : s.mode ≠ .bp1) : t.acc = s.acc := by
    have humode : u.mode ≠ .bp1 := by rw [sink_frame hu]; exact hmode
    rw [ht, advance_acc humode]
    exact sink_acc (s := takeByte s) hmode hu
  refine ⟨?_, ?_, ?_, ?_, ?_, ?_, ?_, ?_, ?_, ?_, ?_, ?_, hacc, ?_, fun hmode a ha => ?_, fun hmode a hchannel halpha => ?_,
    fun hmode a ha => ?_⟩
  iterate 12 rw [deliver_keeps h]
  · intro a; rw [deliver_keeps h]; rfl
  · rw [sink_of_idx8 (s := takeByte s) hmode] at hu
    exact (hpix a).trans (sinkIdx8_pixByte (s := takeByte s) hu ha)
  · rw [sink_of_rgb24 (s := takeByte s) hmode] at hu
    exact (hpix a).trans (sinkRgb24_pixByte (s := takeByte s) hu hchannel halpha)
  · rw [sink_of_bp1 (s := takeByte s) hmode] at hu
    exact (hpix a).trans (sinkBp1Columns_pixByte (s := takeByte s) (is := List.range 8) hu fun i hi =>
      ha i (List.mem_range.mp hi))

end Sys2Proof.Machine
end

section
/-! PROOFS. A decoded byte under the invariant (spec 42_pixel_palette.md R181 to R191): the addresses of PIX it writes,
what it writes there, and that no sink stops the machine. -/

namespace Sys2Proof.Machine

section Addresses

variable {s : State} {a : Nat}

/-! ### Addresses (R45, R68, R191) -/

/-- An address lies in PIX exactly when its row lies in the image. -/
theorem lt_pixSize_iff (hwidth : 0 < s.width.toNat) : a < pixSize s ↔ rowOf s a < s.height.toNat := by
  rw [rowOf, Nat.div_lt_iff_lt_mul hwidth, Nat.div_lt_iff_lt_mul (by decide), pixSize, Nat.mul_comm s.height.toNat]

/-- The pixel of an address is that of column `x` of the current row exactly when row and column agree. -/
theorem eq_pixelOf_iff {x : Nat} (hx : x < s.width.toNat) :
    a / 4 = pixelOf s x ↔ rowOf s a = s.row.toNat ∧ columnOf s a = x := by
  have hwidth : 0 < s.width.toNat := Nat.zero_lt_of_lt hx
  rw [rowOf, columnOf, Nat.div_mod_unique hwidth, pixelOf, Nat.mul_comm s.width.toNat, Nat.add_comm x]
  exact ⟨fun h => ⟨h.symm, hx⟩, fun h => h.1.symm⟩

/-- The addresses of PIX the decoded byte at the current position writes (R181 to R183, R188). -/
abbrev WritesNow (s : State) (a : Nat) : Prop :=
  a < pixSize s ∧ rowOf s a = s.row.toNat ∧ writingPlane s (a % 4) = s.pln.toNat ∧
    coveringByte s (columnOf s a) = s.bcnt.toNat

/-- The same addresses by pixel: those of the columns the byte covers, with the plane that writes the channel. -/
theorem writesNow_iff (hwidth : 0 < s.width.toNat) (hrow : s.row.toNat < s.height.toNat) :
    WritesNow s a ↔ writingPlane s (a % 4) = s.pln.toNat ∧
      ∃ x < s.width.toNat, coveringByte s x = s.bcnt.toNat ∧ a / 4 = pixelOf s x := by
  constructor
  · rintro ⟨-, hr, hplane, hcover⟩
    have hcol : columnOf s a < s.width.toNat := Nat.mod_lt _ hwidth
    exact ⟨hplane, columnOf s a, hcol, hcover, (eq_pixelOf_iff hcol).mpr ⟨hr, rfl⟩⟩
  · rintro ⟨hplane, x, hx, hcover, ha⟩
    obtain ⟨hr, rfl⟩ := (eq_pixelOf_iff hx).mp ha
    exact ⟨(lt_pixSize_iff hwidth).mpr (hr ▸ hrow), hr, hplane, hcover⟩

/-- In the 8-bit modes a byte covers the one column BCNT (R181, R182). -/
theorem writesNow_iff_of_not_bp1 (hmode : s.mode ≠ .bp1) (hwidth : 0 < s.width.toNat)
    (hrow : s.row.toNat < s.height.toNat) : WritesNow s a ↔
      writingPlane s (a % 4) = s.pln.toNat ∧ s.bcnt.toNat < s.width.toNat ∧ a / 4 = pixelOf s s.bcnt.toNat := by
  have hcover (x : Nat) : coveringByte s x = x := by
    unfold coveringByte
    split
    · next h => exact absurd h hmode
    · rfl
  rw [writesNow_iff hwidth hrow]
  simp only [hcover]
  refine and_congr_right fun _ => ⟨?_, fun ⟨hlt, ha⟩ => ⟨_, hlt, rfl, ha⟩⟩
  rintro ⟨x, hlt, rfl, ha⟩
  exact ⟨hlt, ha⟩

end Addresses

section Delivery

variable {s : State} {m : Memory} {v : Byte}

/-! ### What a decoded byte does -/

/-- The byte the decoded byte `v` writes at an address, when it leaves ACC as `acc` (R181 to R183, R188). -/
def writtenByte (s : State) (acc : List (BitVec 4)) (v : Byte) (a : Nat) : Byte :=
  match s.mode with
  | .rgb24 => if a % 4 < 3 then v else Config.alpha
  | .bp1 => pixelByte s.pal (accIndex acc (columnOf s a)) (a % 4)
  | _ => pixelByte s.pal v (a % 4)

/-- `acc` and `m` are ACC and PIX after the decoded byte `v` at the current position. -/
structure Delivery (s : State) (v : Byte) (acc : List (BitVec 4)) (m : Memory) : Prop where
  wf : m.wf
  read : ∀ a, m.read a = if WritesNow s a then some (writtenByte s acc v a) else pixByte s a
  length : s.mode = .bp1 → acc.length = s.width.toNat
  bits : s.mode = .bp1 → ∀ x < s.width.toNat, ∀ q < 4, (accAt acc x).getLsbD q =
    ((accAt s.acc x).getLsbD q ||
      (x / 8 == s.bcnt.toNat && q == s.pln.toNat && columnBit Config.bitOrder v (x % 8)))

/-! ### The canonical form of PIX -/

theorem channelWritten_wf {a : Nat} {plane : BitVec 3} (h : m.wf) : (channelWritten m a plane v).wf := by
  unfold channelWritten
  split
  · exact Memory.write_wf _ _ (Memory.write_wf _ _ h)
  · exact Memory.write_wf _ _ h

/-- The columns of SINK.BP1 keep PIX in canonical form. -/
theorem sinkBp1Columns_wf {is : List Nat} {t : State} (h : sinkBp1Columns v is s = .next t)
    (hwf : ∀ m ∈ s.pix, Memory.wf m) : ∀ m ∈ t.pix, Memory.wf m := by
  induction is generalizing s with
  | nil => cases h; exact hwf
  | cons i is ih =>
    obtain ⟨s1, h1, h⟩ := andThen_eq_next.mp h
    refine ih h ?_
    obtain ⟨-, rfl⟩ | ⟨-, -, rfl⟩ | ⟨-, -, m, hm, -, rfl⟩ := sinkBp1Column_next h1
    · exact hwf
    · exact hwf
    · intro m' hm'
      obtain rfl : _ = m' := Option.some.inj hm'
      exact pixelWritten_wf _ _ _ (hwf m hm)

/-- Writing a channel of pixel `p` gives the bytes its plane writes, and keeps every other byte. -/
theorem channelWritten_read_pixel (m : Memory) (p : Nat) {plane : BitVec 3} (hplane : plane.toNat ≤ 2) (v : Byte)
    (a : Nat) : (channelWritten m (p * 4) plane v).read a =
      if min (a % 4) 2 = plane.toNat ∧ a / 4 = p then some (if a % 4 < 3 then v else Config.alpha) else m.read a := by
  have hchannel : a = p * 4 + plane.toNat ↔ a / 4 = p ∧ a % 4 = plane.toNat := by omega
  have halpha : a = p * 4 + 3 ↔ a / 4 = p ∧ a % 4 = 3 := by omega
  rw [channelWritten_read]
  simp only [hchannel, halpha]
  by_cases hp : a / 4 = p
  · by_cases hc : a % 4 < 3
    · have hmin : min (a % 4) 2 = a % 4 := by omega
      simp [hp, hc, hmin, Nat.ne_of_lt hc]
    · have hthree : a % 4 = 3 := by omega
      have hne : 3 ≠ plane.toNat := by omega
      simp [hp, hthree, hne, eq_comm]
  · simp [hp]

/-! ### The sinks under the invariant -/

/-- What the sinks take from the invariant in DECODE. -/
structure SinkReady (s : State) (m : Memory) : Prop where
  pix : s.pix = some m
  wf : m.wf
  width : 0 < s.width.toNat
  row : s.row.toNat < s.height.toNat
  pair : SupportedPair s.hdr.bpp s.hdr.nplanes s.mode
  plane : s.pln.toNat < s.hdr.nplanes.toNat
  length : s.mode = .bp1 → s.acc.length = s.width.toNat

theorem Inv.sinkReady (h : Inv s) (hdecode : s.status = .decode) : ∃ m, SinkReady s m := by
  have haccepted : s.status.accepted = true := by rw [hdecode]; rfl
  have hpix : s.pix.isSome = true := h.pixIff.trans haccepted
  obtain ⟨m, hm⟩ := Option.isSome_iff_exists.mp hpix
  obtain ⟨hw, -, hh, -⟩ := h.dims haccepted
  obtain ⟨-, hrow, hplane, -⟩ := h.counters hdecode
  exact ⟨m, hm, h.pixWf m hm, by omega, by omega, h.pair (.inr (.inl hdecode)), hplane,
    fun hbp1 => (h.accs hdecode hbp1).1⟩

/-- SINK.IDX8 (R181, R187). -/
theorem SinkReady.sink_idx8 (h : SinkReady s m) (hmode : s.mode = .idx8) :
    ∃ acc m', sink v s = .next (setPixels acc m' s) ∧ Delivery s v acc m' := by
  have hrow := h.row
  have hbp1 : s.mode ≠ .bp1 := by simp [hmode]
  have hplanes : s.hdr.nplanes.toNat = 1 := by
    obtain ⟨-, hn, -⟩ | ⟨-, -, hm⟩ | ⟨-, -, -, hm⟩ := h.pair
    · rw [hn]; rfl
    · simp [hm] at hmode
    · simp [hm] at hmode
  have hplane (c : Nat) : writingPlane s c = s.pln.toNat := by
    have := h.plane
    simp only [writingPlane, hmode]
    omega
  rw [sink_of_idx8 hmode]
  by_cases hcol : (s.bcnt.toNat : Int) < s.width
  · refine ⟨s.acc, _, sinkIdx8_of_inImage h.pix hcol (by omega), pixelWritten_wf _ _ _ h.wf, fun a => ?_,
      fun hm => absurd hm hbp1, fun hm => absurd hm hbp1⟩
    have hlt : s.bcnt.toNat < s.width.toNat := by omega
    simp only [pixAddr_eq_pixelOf, pixelWritten_read_pixel, writesNow_iff_of_not_bp1 hbp1 h.width h.row, hplane, hlt,
      true_and, writtenByte, hmode, pixByte_of_pix_some h.pix]
  · rw [sinkIdx8_of_padding (not_lt.mp hcol)]
    refine ⟨s.acc, m, by rw [setPixels_self h.pix], h.wf, fun a => ?_, fun hm => absurd hm hbp1, fun hm => absurd hm hbp1⟩
    have hge : ¬ s.bcnt.toNat < s.width.toNat := by omega
    simp only [writesNow_iff_of_not_bp1 hbp1 h.width h.row, hge, false_and, and_false, if_false,
      pixByte_of_pix_some h.pix]

/-- SINK.RGB24 (R182, R187, R188). -/
theorem SinkReady.sink_rgb24 (h : SinkReady s m) (hmode : s.mode = .rgb24) :
    ∃ acc m', sink v s = .next (setPixels acc m' s) ∧ Delivery s v acc m' := by
  have hrow := h.row
  have hbp1 : s.mode ≠ .bp1 := by simp [hmode]
  have hpln : s.pln.toNat ≤ 2 := by
    obtain ⟨-, -, hm⟩ | ⟨-, hn, -⟩ | ⟨-, -, -, hm⟩ := h.pair
    · simp [hm] at hmode
    · have hlt := h.plane
      rw [hn] at hlt
      exact Nat.le_of_lt_succ hlt
    · simp [hm] at hmode
  have hplane (c : Nat) : writingPlane s c = min c 2 := by simp only [writingPlane, hmode]
  rw [sink_of_rgb24 hmode]
  by_cases hcol : (s.bcnt.toNat : Int) < s.width
  · refine ⟨s.acc, _, sinkRgb24_of_inImage h.pix hcol (by omega) hpln, channelWritten_wf h.wf, fun a => ?_,
      fun hm => absurd hm hbp1, fun hm => absurd hm hbp1⟩
    have hlt : s.bcnt.toNat < s.width.toNat := by omega
    simp only [pixAddr_eq_pixelOf, channelWritten_read_pixel _ _ hpln, writesNow_iff_of_not_bp1 hbp1 h.width h.row, hplane, hlt,
      true_and, writtenByte, hmode, pixByte_of_pix_some h.pix]
  · rw [sinkRgb24_of_padding (not_lt.mp hcol)]
    refine ⟨s.acc, m, by rw [setPixels_self h.pix], h.wf, fun a => ?_, fun hm => absurd hm hbp1, fun hm => absurd hm hbp1⟩
    have hge : ¬ s.bcnt.toNat < s.width.toNat := by omega
    simp only [writesNow_iff_of_not_bp1 hbp1 h.width h.row, hge, false_and, and_false, if_false,
      pixByte_of_pix_some h.pix]

/-- SINK.BP1 (R183, R185, R187). -/
theorem SinkReady.sink_bp1 (h : SinkReady s m) (hmode : s.mode = .bp1) :
    ∃ acc m', sink v s = .next (setPixels acc m' s) ∧ Delivery s v acc m' := by
  have hrow := h.row
  obtain ⟨acc, m', hsink, hacc, hread⟩ := sinkBp1_spec (v := v) h.pix (h.length hmode) (by omega)
  have hwf : m'.wf := sinkBp1Columns_wf hsink (fun m1 h1 => by
    obtain rfl : m = m1 := Option.some.inj (h.pix.symm.trans h1)
    exact h.wf) m' rfl
  refine ⟨acc, m', by rw [sink_of_bp1 hmode, hsink], hwf, fun a => ?_, fun _ => hacc.length.trans (h.length hmode),
    fun _ x hx q hq => hacc.getLsbD hx hq⟩
  have hlast : writingPlane s (a % 4) = s.pln.toNat ↔ lastPlane s = true := by
    have hplane := h.plane
    simp only [lastPlane_iff, writingPlane, hmode]
    omega
  have hcover (x : Nat) : coveringByte s x = x / 8 := by rw [coveringByte, hmode]
  have hwrites := writesNow_iff (a := a) h.width h.row
  simp only [hlast, hcover] at hwrites
  rw [pixByte_of_pix_some h.pix]
  cases hlast : lastPlane s
  · rw [(hread a).1 hlast, if_neg]
    simp [hwrites, hlast]
  · obtain ⟨hhit, hmiss⟩ := (hread a).2 hlast
    by_cases hnow : WritesNow s a
    · obtain ⟨-, x, hx, hbyte, ha⟩ := hwrites.mp hnow
      obtain ⟨-, hcol⟩ := (eq_pixelOf_iff hx).mp ha
      rw [if_pos hnow, hhit x ((mem_bp1Columns _ _).mpr hbyte) hx ha, writtenByte, hmode, hcol]
    · rw [if_neg hnow]
      exact hmiss fun x hx hlt ha => hnow (hwrites.mpr ⟨hlast, x, hlt, (mem_bp1Columns _ _).mp hx, ha⟩)

/-- Under the invariant every sink goes on, and does what the rules say. -/
theorem sink_of_inv (h : Inv s) (hdecode : s.status = .decode) (v : Byte) :
    ∃ acc m, sink v s = .next (setPixels acc m s) ∧ Delivery s v acc m := by
  obtain ⟨m, hready⟩ := h.sinkReady hdecode
  cases hmode : s.mode with
  | none =>
    obtain ⟨-, -, hm⟩ | ⟨-, -, hm⟩ | ⟨-, -, -, hm⟩ := hready.pair <;> simp [hm] at hmode
  | idx8 => exact hready.sink_idx8 hmode
  | rgb24 => exact hready.sink_rgb24 hmode
  | bp1 => exact hready.sink_bp1 hmode

end Delivery

end Sys2Proof.Machine
end

section
/-! PROOFS. The loop nest (spec 41_rle_stream.md R155, R157): the advance moves the position by one decoded byte in the
order of the nest. -/

namespace Sys2Proof.Machine

section Nest

variable {s t : State}

/-- The position is a byte of the image, in the ranges of R49. -/
structure AtByte (s : State) : Prop where
  byte : s.bcnt.toNat < s.hdr.bpl.toNat
  plane : s.pln.toNat < s.hdr.nplanes.toNat
  planes : s.hdr.nplanes.toNat ≤ 4
  row : (s.row.toNat : Int) < s.height
  rows : s.height ≤ 65536

/-- `t` has the counters, the accumulators and the phase of `s` after the advance (R155, R157). -/
inductive Advanced (s t : State) : Prop where
  | inPlane (hbyte : s.bcnt.toNat + 1 < s.hdr.bpl.toNat) (hbcnt : t.bcnt.toNat = s.bcnt.toNat + 1)
      (hpln : t.pln.toNat = s.pln.toNat) (hrow : t.row.toNat = s.row.toNat) (hacc : t.acc = s.acc)
      (hstatus : t.status = s.status)
  | nextPlane (hbyte : s.bcnt.toNat + 1 = s.hdr.bpl.toNat) (hplane : s.pln.toNat + 1 < s.hdr.nplanes.toNat)
      (hbcnt : t.bcnt = 0#16) (hpln : t.pln.toNat = s.pln.toNat + 1) (hrow : t.row.toNat = s.row.toNat)
      (hacc : t.acc = s.acc) (hstatus : t.status = s.status)
  | nextRow (hbyte : s.bcnt.toNat + 1 = s.hdr.bpl.toNat) (hplane : s.pln.toNat + 1 = s.hdr.nplanes.toNat)
      (hbcnt : t.bcnt = 0#16) (hpln : t.pln = 0#3) (hrow : t.row.toNat = s.row.toNat + 1)
      (hacc : t.acc = if s.mode = .bp1 ∧ (s.row.toNat : Int) + 1 < s.height then accClear s.width else s.acc)
      (hstatus : t.status = if (s.row.toNat : Int) + 1 = s.height then .done else s.status)

/-- A counter below its bound does not wrap (R160). -/
theorem toNat_add_one {w : Nat} (x : BitVec w) (h : x.toNat + 1 < 2 ^ w) : (x + 1#w).toNat = x.toNat + 1 := by
  have hone : 1 < 2 ^ w := by omega
  rw [BitVec.toNat_add, BitVec.toNat_ofNat, Nat.mod_eq_of_lt hone, Nat.mod_eq_of_lt h]

/-- The row after the current one is a number of the image's rows, and does not wrap (R160). -/
theorem AtByte.toNat_row_add_one (h : AtByte s) : (s.row + 1#17).toNat = s.row.toNat + 1 := by
  have hrow := h.row
  have hrows := h.rows
  exact toNat_add_one _ (by omega)

/-- In the ranges of R49 no counter wraps. -/
theorem AtByte.advanced (h : AtByte s) : Advanced s (advance s) := by
  have hbpl := s.hdr.bpl.isLt
  have hbyte := h.byte
  have hplane := h.plane
  have hplanes := h.planes
  by_cases hb : s.bcnt.toNat + 1 = s.hdr.bpl.toNat
  · by_cases hp : s.pln.toNat + 1 = s.hdr.nplanes.toNat
    · rw [advance_nextRow s hb hp, h.toNat_row_add_one]
      refine .nextRow hb hp rfl rfl h.toNat_row_add_one ?_ ?_ <;> simp only [Nat.cast_add, Nat.cast_one]
    · rw [advance_nextPlane s hb hp]
      exact .nextPlane hb (by omega) rfl (toNat_add_one _ (by omega)) rfl rfl rfl
  · rw [advance_inPlane s hb]
    exact .inPlane (by omega) (toNat_add_one _ (by omega)) rfl rfl rfl rfl

/-- The advance stays in DECODE or ends the image (R157). -/
theorem Advanced.status_cases (h : Advanced s t) (hs : s.status = .decode) : t.status = .decode ∨ t.status = .done := by
  cases h with
  | inPlane _ _ _ _ _ hstatus => exact .inl (hstatus.trans hs)
  | nextPlane _ _ _ _ _ _ hstatus => exact .inl (hstatus.trans hs)
  | nextRow _ _ _ _ _ _ hstatus =>
    rw [hstatus]
    split
    · exact .inr rfl
    · exact .inl hs

/-- When the decode goes on, the counters are those of a byte of the image (R49). -/
theorem Advanced.in_range (h : Advanced s t) (hat : AtByte s) (ht : t.status = .decode) :
    (t.row.toNat : Int) < s.height ∧ t.pln.toNat < s.hdr.nplanes.toNat ∧ t.bcnt.toNat < s.hdr.bpl.toNat := by
  have hbyte := hat.byte
  have hplane := hat.plane
  have hrow := hat.row
  cases h with
  | inPlane hb hbcnt hpln hr => exact ⟨by omega, by omega, by omega⟩
  | nextPlane hb hp hbcnt hpln hr => rw [hbcnt]; exact ⟨by omega, by omega, Nat.zero_lt_of_lt hbyte⟩
  | nextRow hb hp hbcnt hpln hr hacc hstatus =>
    rw [hbcnt, hpln]
    refine ⟨?_, Nat.zero_lt_of_lt hplane, Nat.zero_lt_of_lt hbyte⟩
    by_contra hge
    have hend : (s.row.toNat : Int) + 1 = s.height := by omega
    rw [hstatus, if_pos hend] at ht
    cases ht

/-- When the image ends, ROW is HEIGHT and PLN and BCNT are 0 (R157). -/
theorem Advanced.at_end (h : Advanced s t) (hs : s.status = .decode) (ht : t.status = .done) :
    (t.row.toNat : Int) = s.height ∧ t.pln = 0#3 ∧ t.bcnt = 0#16 := by
  cases h with
  | inPlane _ _ _ _ _ hstatus => rw [hstatus, hs] at ht; cases ht
  | nextPlane _ _ _ _ _ _ hstatus => rw [hstatus, hs] at ht; cases ht
  | nextRow _ _ hbcnt hpln hrow _ hstatus =>
    have hend : (s.row.toNat : Int) + 1 = s.height := by
      by_contra hmore
      rw [hstatus, if_neg hmore, hs] at ht
      cases ht
    exact ⟨by rw [hrow, Nat.cast_add, Nat.cast_one, hend], hpln, hbcnt⟩

/-! ### Position (R155, R160) -/

/-- The advance moves the position by one decoded byte. -/
theorem AtByte.position_advance (h : AtByte s) : position (advance s) = position s + 1 := by
  cases h.advanced with
  | inPlane hbyte hbcnt hpln hrow =>
    simp only [position, byteNumber, advance_hdr, hbcnt, hpln, hrow]
    exact (Nat.add_assoc ..).symm
  | nextPlane hbyte hplane hbcnt hpln hrow =>
    simp only [position, byteNumber, advance_hdr, hbcnt, hpln, hrow, ← Nat.add_assoc, Nat.succ_mul, BitVec.toNat_zero]
    omega
  | nextRow hbyte hplane hbcnt hpln hrow =>
    simp only [position, byteNumber, advance_hdr, hbcnt, hpln, hrow, Nat.succ_mul, BitVec.toNat_zero, Nat.add_zero]
    rw [← hplane, ← Nat.add_assoc, Nat.succ_mul]
    omega

/-- The number of a byte of the image is below the image's number of bytes. -/
theorem AtByte.position_lt (h : AtByte s) : position s < imageBytes s := by
  have hrow : s.row.toNat < s.height.toNat := by have := h.row; omega
  have hlines := Nat.mul_add_lt_mul_of_lt_of_lt hrow h.plane
  have hbytes := Nat.mul_add_lt_mul_of_lt_of_lt hlines h.byte
  rwa [Nat.mul_comm s.hdr.bpl.toNat, Nat.mul_comm s.hdr.nplanes.toNat] at hbytes

/-- The decoded bytes delivered after the advance: those before it, and the one at the position (R155). -/
theorem AtByte.delivered_advance (h : AtByte s) {y p b : Nat} (hp : p < s.hdr.nplanes.toNat) :
    Delivered (advance s) y p b ↔
      Delivered s y p b ∨ (y = s.row.toNat ∧ p = s.pln.toNat ∧ b = s.bcnt.toNat) := by
  have hbyte := h.byte
  cases h.advanced with
  | inPlane hbyte hbcnt hpln hrow => simp only [Delivered, advance_hdr, hbcnt, hpln, hrow]; omega
  | nextPlane hbyte hplane hbcnt hpln hrow =>
    simp only [Delivered, advance_hdr, hbcnt, hpln, hrow, BitVec.toNat_zero]; omega
  | nextRow hbyte hplane hbcnt hpln hrow =>
    simp only [Delivered, advance_hdr, hbcnt, hpln, hrow, BitVec.toNat_zero]; omega

/-! ### Coverage (R66, R189) -/

/-- In a supported format the plane that writes a channel is a plane of the image. -/
theorem writingPlane_lt (h : SupportedPair s.hdr.bpp s.hdr.nplanes s.mode) (c : Nat) :
    writingPlane s c < s.hdr.nplanes.toNat := by
  obtain ⟨-, hn, hm⟩ | ⟨-, hn, hm⟩ | ⟨-, hpos, -, hm⟩ := h
  · simp [writingPlane, hm, hn]
  · simp only [writingPlane, hm, hn]; exact Nat.lt_succ_of_le (Nat.min_le_right _ _)
  · simp only [writingPlane, hm]; omega

/-- The addresses written after the advance: those before it, and those the byte at the position writes. -/
theorem AtByte.writtenBefore_advance (h : AtByte s) (hpair : SupportedPair s.hdr.bpp s.hdr.nplanes s.mode) (a : Nat) :
    WrittenBefore (advance s) a ↔ WrittenBefore s a ∨ WritesNow s a := by
  have hmoved : WrittenBefore (advance s) a ↔
      a < pixSize s ∧ Delivered (advance s) (rowOf s a) (writingPlane s (a % 4)) (coveringByte s (columnOf s a)) := by
    simp only [WrittenBefore, pixSize, rowOf, columnOf, writingPlane, coveringByte, advance_width, advance_height,
      advance_mode, advance_hdr]
  rw [hmoved, h.delivered_advance (writingPlane_lt hpair _), and_or_left]

/-- The byte at the position has not been delivered, so its addresses have not been written (R66). -/
theorem not_writesNow_of_writtenBefore {a : Nat} (h : WrittenBefore s a) : ¬ WritesNow s a := by
  rintro ⟨-, hrow, hplane, hcover⟩
  obtain ⟨-, -, hdelivered⟩ := h
  rw [hrow, hplane, hcover] at hdelivered
  omega

end Nest

/-- Settles O30: the advance by its three cases; no counter wraps in the ranges given. -/
theorem advanceFollowsTheLoopNest : Obligations.AdvanceFollowsTheLoopNest := by
  intro s hbyte hplane hplanes hrow hrows
  have h : AtByte s := ⟨hbyte, hplane, hplanes, hrow, hrows⟩
  have hbpl := s.hdr.bpl.isLt
  refine ⟨fun hb => ?_, fun hb hp => ?_, fun hb hp => ?_⟩
  · rw [advance_inPlane s (Nat.ne_of_lt hb)]
    exact ⟨toNat_add_one _ (by omega), rfl⟩
  · rw [advance_nextPlane s hb (Nat.ne_of_lt hp)]
    exact ⟨toNat_add_one _ (by omega), rfl⟩
  · rw [advance_nextRow s hb hp]
    refine ⟨h.toNat_row_add_one, ?_⟩
    simp only [h.toNat_row_add_one, Nat.cast_add, Nat.cast_one, accClear]

end Sys2Proof.Machine
end

section
/-! PROOFS. The invariant of the phases (spec 10_state.md R36 to R49): it holds after reset, and every move of the host
and every step of the block keeps it. -/

namespace Sys2Proof.Machine

section Invariant

variable {s t : State}

/-! ### Outside the accepted phases -/

/-- While the header is not accepted the invariant speaks of IN, ERR, MODE and the absence of PIX only. -/
theorem Inv.of_not_accepted (hinput : s.input.wf) (hstatus : s.status.accepted = false) (hpix : s.pix = none)
    (herr : s.err ≠ .none ↔ s.status = .error) (hinfo : s.err ≠ .unsupportedFormat → s.errinfo = 0#16)
    (hmode : s.status ≠ .error → s.mode = .none) : Inv s where
  inputWf := hinput
  pixWf := by simp [hpix]
  pixInside := by simp [hpix]
  errIff := herr
  infoOnly := hinfo
  pixIff := by rw [hpix, hstatus]; rfl
  modeNone := fun h => hmode (by obtain h | h | h := h <;> simp [h])
  dims := by simp [hstatus]
  dimsOf := by simp [hstatus]
  headerLen := by rintro (h | h | h) <;> simp [h, Phase.accepted] at hstatus
  fresh := by rintro (h | h) <;> simp [h, Phase.accepted] at hstatus
  pair := by rintro (h | h | h) <;> simp [h, Phase.accepted] at hstatus
  counters := fun h => by simp [h, Phase.accepted] at hstatus
  marker := fun h => by simp [h, Phase.accepted] at hstatus
  accs := fun h => by simp [h, Phase.accepted] at hstatus
  ended := fun h => by simp [h, Phase.accepted] at hstatus

/-- Settles O43: after reset the block is in IDLE, with both memories empty. -/
theorem invariantHoldsAtReset : Obligations.InvariantHoldsAtReset :=
  Inv.of_not_accepted reset_memory_wf.1 rfl rfl (by simp) (fun _ => rfl) fun _ => rfl

theorem Inv.after_reset (s : State) : Inv (hostReset s) :=
  { invariantHoldsAtReset with }

theorem Inv.after_start (h : Inv s) : Inv (start s) :=
  Inv.of_not_accepted h.inputWf rfl rfl (by simp) (fun _ => rfl) fun _ => rfl

/-- A raise leaves the invariant, whatever was written before it (R39, R40, R219). -/
theorem Inv.after_raise (hinput : s.input.wf) {e : Err} (he : e ≠ .none) {info : BitVec 16}
    (hinfo : e ≠ .unsupportedFormat → info = 0#16) : Inv (raise e info s) :=
  Inv.of_not_accepted hinput rfl rfl (by simp [he]) hinfo fun h => absurd rfl h

/-- The schedule of the host is no part of the invariant. -/
theorem Inv.with_host (h : Inv s) (moves : List HostMove) : Inv (setHost moves s) := { h with }

/-- While the block is not busy the invariant says nothing of LEN, and of IN its form only. -/
theorem Inv.with_input (h : Inv s) (hbusy : busy s = false) {n : Nat} {m : Memory} (hwf : m.wf) :
    Inv { s with len := n, input := m } := by
  have hphases : s.status ≠ .dispatch ∧ s.status ≠ .palload ∧ s.status ≠ .decode := by
    obtain hs | hs | hs := busy_eq_false_iff.mp hbusy <;> simp [hs]
  exact { h with
    inputWf := hwf
    headerLen := fun hs => absurd hs (by simp [hphases])
    counters := fun hs => absurd hs hphases.2.2
    marker := fun hs => absurd hs hphases.2.2 }

/-! ### The configuration -/

/-- MAGIC keeps the invariant (R122 to R125). -/
theorem Inv.after_magic (h : Inv s) (hstatus : s.status = .hdr) (hexec : exec .magic s = .next t) : Inv t := by
  obtain ⟨-, rfl⟩ | ⟨hlen, hd, -, ⟨-, rfl⟩ | ⟨hx, hy, rfl⟩⟩ := execMagic_next hexec
  · exact Inv.after_raise (e := .truncatedStream) h.inputWf nofun fun _ => rfl
  · exact Inv.after_raise (e := .invalidDimensions) (s := setDims _ _ (setHeader hd s)) h.inputWf nofun fun _ => rfl
  · have hxmax := hd.xmax.isLt
    have hymax := hd.ymax.isLt
    have herr : s.err = .none := not_not.mp (mt h.errIff.mp (by simp [hstatus]))
    exact
      { inputWf := h.inputWf
        pixWf := by simp
        pixInside := by simp
        errIff := by simp [herr]
        infoOnly := h.infoOnly
        pixIff := rfl
        modeNone := fun _ => h.modeNone (.inr (.inl hstatus))
        dims := fun _ => by simp only [openPix_width, openPix_height, setDims_width, setDims_height]; unfold dimension at *; omega
        dimsOf := fun _ => ⟨rfl, rfl⟩
        headerLen := fun _ => hlen
        fresh := fun _ => rfl
        pair := by simp
        counters := by simp
        marker := by simp
        accs := by simp
        ended := by simp }

/-- DISPATCH keeps the invariant: a supported pair goes with its mode (R126). -/
theorem Inv.after_selectMode (h : Inv s) (hstatus : s.status = .dispatch) {m : Mode}
    (hpair : SupportedPair s.hdr.bpp s.hdr.nplanes m) : Inv (selectMode m s) := by
  have haccepted : s.status.accepted = true := by rw [hstatus]; rfl
  have herr : s.err = .none := not_not.mp (mt h.errIff.mp (by simp [hstatus]))
  exact { h with
    errIff := by simp [herr]
    pixIff := h.pixIff.trans haccepted
    modeNone := by simp
    dims := fun _ => h.dims haccepted
    dimsOf := fun _ => h.dimsOf haccepted
    headerLen := fun _ => h.headerLen (.inl hstatus)
    fresh := fun _ => h.fresh (.inl hstatus)
    pair := fun _ => hpair
    counters := by simp
    marker := by simp
    accs := by simp
    ended := by simp }

/-- Cleared accumulators hold no bit (R150, R186). -/
theorem accAt_accClear (width : Int) (x : Nat) : accAt (accClear width) x = 0#4 := by
  simp only [accAt, accClear, List.getD_eq_getElem?_getD, List.getElem?_replicate]
  split <;> rfl

/-- A supported format has a plane. -/
theorem nplanes_pos {bpp nplanes : Byte} {m : Mode} (h : SupportedPair bpp nplanes m) : 0 < nplanes.toNat := by
  obtain ⟨-, hn, -⟩ | ⟨-, hn, -⟩ | ⟨-, hn, -⟩ := h
  · rw [hn]; decide
  · rw [hn]; decide
  · exact hn

/-- PALLOAD keeps the invariant: DECODE.INIT puts the position at the first decoded byte (R150, R158). -/
theorem Inv.after_decodeInit (h : Inv s) (hstatus : s.status = .palload)
    (hmarker : s.mode = .idx8 → 769 ≤ s.len ∧ inByte s (s.len - 769) = some 12#8) (p : Vector Byte 768) :
    Inv (decodeInit (setPal p s)) := by
  have haccepted : s.status.accepted = true := by rw [hstatus]; rfl
  have herr : s.err = .none := not_not.mp (mt h.errIff.mp (by simp [hstatus]))
  have hpair := h.pair (.inl hstatus)
  obtain ⟨hw, -, hh, -⟩ := h.dims haccepted
  have hnext := decodeInit_status_cases (setPal p s)
  have hnot : (decodeInit (setPal p s)).status ≠ .idle ∧ (decodeInit (setPal p s)).status ≠ .hdr ∧
      (decodeInit (setPal p s)).status ≠ .dispatch ∧ (decodeInit (setPal p s)).status ≠ .palload ∧
      (decodeInit (setPal p s)).status ≠ .error := by
    obtain ⟨hs, -⟩ | ⟨hs, -⟩ := hnext <;> rw [hs] <;> decide
  have hbpl : (decodeInit (setPal p s)).status = .decode → 0 < s.hdr.bpl.toNat := fun hdecode => by
    obtain ⟨-, hne⟩ | ⟨hs, -⟩ := hnext
    · exact Nat.pos_of_ne_zero fun hzero => hne ((bpl_eq_zero_iff _).mp hzero)
    · rw [hs] at hdecode; cases hdecode
  exact { h with
    errIff := ⟨fun hne => absurd herr hne, fun hs => absurd hs hnot.2.2.2.2⟩
    pixIff := by
      have hpix := h.pixIff.trans haccepted
      obtain ⟨hs, -⟩ | ⟨hs, -⟩ := hnext <;> rw [hs] <;> exact hpix
    modeNone := fun hs => absurd hs (by simp only [hnot, or_self, not_false_eq_true])
    dims := fun _ => h.dims haccepted
    dimsOf := fun _ => h.dimsOf haccepted
    headerLen := fun _ => h.headerLen (.inr (.inl hstatus))
    fresh := fun _ => h.fresh (.inr hstatus)
    pair := fun _ => hpair
    counters := fun hdecode => ⟨hbpl hdecode, hh, nplanes_pos hpair, hbpl hdecode, Nat.le_refl _,
      h.headerLen (.inr (.inl hstatus))⟩
    marker := fun _ hmode => hmarker hmode
    accs := fun _ hmode => by
      have hacc : (decodeInit (setPal p s)).acc = accClear s.width := if_pos hmode
      refine ⟨by rw [hacc]; exact List.length_replicate, fun x _ q _ _ => ?_⟩
      rw [hacc, accAt_accClear]
      simp
    ended := fun hdone => by
      obtain ⟨hs, -⟩ | ⟨-, hzero⟩ := hnext
      · rw [hs] at hdone; cases hdone
      · exact ⟨.inl ⟨hzero, rfl⟩, rfl, rfl⟩ }

/-! ### The byte-step -/

/-- The state with another active run and another CUR: what the token fetch writes. -/
def setRun (n : BitVec 6) (v : Byte) (c : Nat) (s : State) : State := { s with runlen := n, runval := v, cur := c }

/-- The token fetch moves CUR within the input (R26). -/
theorem Inv.with_run (h : Inv s) (n : BitVec 6) (v : Byte) {c : Nat} (hge : s.cur ≤ c) (hle : s.cur ≤ s.len → c ≤ s.len) :
    Inv (setRun n v c s) :=
  { h with
    counters := fun hdecode => by
      obtain ⟨hbpl, hrow, hplane, hbyte, hcur, hlen⟩ := h.counters hdecode
      exact ⟨hbpl, hrow, hplane, hbyte, hcur.trans hge, hle hlen⟩ }

/-- The cells of a memory in canonical form read as they are listed. -/
theorem Memory.read_of_mem {m : Memory} (hwf : m.wf) {c : Host.Cell} (hc : c ∈ m) : m.read c.1 = some c.2 := by
  induction m with
  | nil => cases hc
  | cons d rest ih =>
    obtain ⟨hlt, hrest⟩ := List.pairwise_cons.mp hwf
    obtain rfl | hc := List.mem_cons.mp hc
    · simp [Memory.read]
    · rw [Memory.read, if_neg (Nat.ne_of_lt (hlt c hc)), ih hrest hc]

/-- Under the invariant a byte of PIX that holds a value lies inside PIX. -/
theorem Inv.lt_pixSize (h : Inv s) {a : Nat} {b : Byte} (hb : pixByte s a = some b) : a < pixSize s := by
  obtain ⟨m, hm, hread⟩ := Option.bind_eq_some_iff.mp hb
  exact h.pixInside m hm _ (Memory.mem_of_read hread)

theorem Inv.atByte (h : Inv s) (hdecode : s.status = .decode) : AtByte s := by
  have haccepted : s.status.accepted = true := by rw [hdecode]; rfl
  obtain ⟨-, -, -, hheight⟩ := h.dims haccepted
  obtain ⟨-, hrow, hplane, hbyte, -⟩ := h.counters hdecode
  have hplanes : s.hdr.nplanes.toNat ≤ 4 := by
    obtain ⟨-, hn, -⟩ | ⟨-, hn, -⟩ | ⟨-, -, hn, -⟩ := h.pair (.inr (.inl hdecode))
    · rw [hn]; decide
    · rw [hn]; decide
    · exact hn
  exact ⟨hbyte, hplane, hplanes, hrow, hheight⟩

/-- The accumulators after a decoded byte hold no bit beyond it: those of other planes and columns are as before, and
clean (R49). -/
theorem Delivery.clean {v : Byte} {acc : List (BitVec 4)} {m : Memory} (h : Delivery s v acc m) (hmode : s.mode = .bp1)
    (hclean : AccClean s) {x q : Nat} (hx : x < s.width.toNat) (hq : q < 4)
    (hlater : s.pln.toNat < q ∨ q = s.pln.toNat ∧ 8 * (s.bcnt.toNat + 1) ≤ x) : (accAt acc x).getLsbD q = false := by
  have hother : (x / 8 == s.bcnt.toNat && q == s.pln.toNat) = false := by
    rw [Bool.and_eq_false_iff, beq_eq_false_iff_ne, beq_eq_false_iff_ne]
    omega
  rw [h.bits hmode x hx q hq, hother, hclean x hx q hq (by omega)]
  rfl

/-- The accumulators after a delivered byte, when the decode goes on: the scanline's, with no bit beyond the position, or
those of a new scanline, cleared (R49, R186). -/
theorem Delivery.clean_advanced {n : BitVec 6} {v : Byte} {c : Nat} {acc : List (BitVec 4)} {m : Memory}
    (hdel : Delivery s v acc m) (hadv : Advanced (setPixels acc m (setRun n v c s)) t) (hat : AtByte s)
    (ht : t.status = .decode) (hmode : s.mode = .bp1) (hclean : AccClean s) :
    t.acc.length = s.width.toNat ∧ ∀ x < s.width.toNat, ∀ q < 4,
      (t.pln.toNat < q ∨ q = t.pln.toNat ∧ 8 * t.bcnt.toNat ≤ x) → (accAt t.acc x).getLsbD q = false := by
  cases hadv with
  | inPlane _ hb hp _ hacc _ =>
    rw [show t.acc = acc from hacc]
    refine ⟨hdel.length hmode, fun x hx q hq hlater => hdel.clean hmode hclean hx hq ?_⟩
    dsimp only [setPixels, setRun] at hb hp
    omega
  | nextPlane _ _ hb hp _ hacc _ =>
    rw [show t.acc = acc from hacc]
    refine ⟨hdel.length hmode, fun x hx q hq hlater => hdel.clean hmode hclean hx hq ?_⟩
    dsimp only [setPixels, setRun] at hp
    omega
  | nextRow _ _ _ _ _ hacc hstatus =>
    have hmore : (s.row.toNat : Int) + 1 < s.height := by
      have hrow := hat.row
      by_contra hlast
      have hend : (s.row.toNat : Int) + 1 = s.height := by omega
      rw [hstatus.trans (if_pos hend)] at ht
      cases ht
    rw [show t.acc = accClear s.width from hacc.trans (if_pos ⟨hmode, hmore⟩)]
    exact ⟨List.length_replicate, fun x _ q _ _ => by rw [accAt_accClear]; simp⟩

/-- The state after a decoded byte `v` is delivered: ACC, PIX, the active run and CUR written, and the counters advanced
(R154). -/
def afterByte (s : State) (n : BitVec 6) (v : Byte) (c : Nat) (acc : List (BitVec 4)) (m : Memory) : State :=
  advance (setPixels acc m (setRun n v c s))

theorem afterByte_keeps (s : State) (n : BitVec 6) (v : Byte) (c : Nat) (acc : List (BitVec 4)) (m : Memory) :
    ∃ b p r acc' st, afterByte s n v c acc m =
      { s with runlen := n, runval := v, cur := c, pix := some m, bcnt := b, pln := p, row := r, acc := acc', status := st } :=
  ⟨_, _, _, _, _, advance_keeps _⟩

/-- The delivery of a byte keeps the invariant (R49). -/
theorem Inv.after_byte (h : Inv s) (hdecode : s.status = .decode) {v : Byte} {acc : List (BitVec 4)} {m : Memory}
    (hdel : Delivery s v acc m) (n : BitVec 6) {c : Nat} (hge : s.cur ≤ c) (hle : s.cur ≤ s.len → c ≤ s.len) :
    Inv (afterByte s n v c acc m) := by
  have hrun := h.with_run n v hge hle
  have haccepted : s.status.accepted = true := by rw [hdecode]; rfl
  have herr : s.err = .none := not_not.mp (mt h.errIff.mp (by simp [hdecode]))
  obtain ⟨hbpl, -, -, -, hcur, hlen⟩ := hrun.counters hdecode
  have hat : AtByte (setPixels acc m (setRun n v c s)) := { h.atByte hdecode with }
  have hadv : Advanced (setPixels acc m (setRun n v c s)) (afterByte s n v c acc m) := hat.advanced
  obtain ⟨b, p, r, acc', st, hafter⟩ := afterByte_keeps s n v c acc m
  rw [hafter] at hadv ⊢
  have hst : st = .decode ∨ st = .done := hadv.status_cases hdecode
  have hactive : st ≠ .idle ∧ st ≠ .hdr ∧ st ≠ .dispatch ∧ st ≠ .palload ∧ st ≠ .error := by
    obtain rfl | rfl := hst <;> decide
  have hinside : ∀ d ∈ m, d.1 < pixSize s := fun d hd => by
    have hread := Memory.read_of_mem hdel.wf hd
    rw [hdel.read] at hread
    split at hread
    · next hnow => exact hnow.1
    · exact h.lt_pixSize hread
  exact { hrun with
    pixWf := fun m' hm' => by obtain rfl : m = m' := Option.some.inj hm'; exact hdel.wf
    pixInside := fun m' hm' => by obtain rfl : m = m' := Option.some.inj hm'; exact hinside
    errIff := ⟨fun hne => absurd herr hne, fun hs => absurd hs hactive.2.2.2.2⟩
    pixIff := by obtain rfl | rfl := hst <;> rfl
    modeNone := fun hs => absurd hs (by simp only [hactive, or_self, not_false_eq_true])
    dims := fun _ => h.dims haccepted
    dimsOf := fun _ => h.dimsOf haccepted
    headerLen := fun _ => h.headerLen (.inr (.inr hdecode))
    fresh := fun hs => absurd hs (by simp only [hactive, or_self, not_false_eq_true])
    pair := fun _ => h.pair (.inr (.inl hdecode))
    counters := fun hs => by
      obtain ⟨hrow, hplane, hbyte⟩ := hadv.in_range hat hs
      exact ⟨hbpl, hrow, hplane, hbyte, hcur, hlen⟩
    marker := fun _ hmode => h.marker hdecode hmode
    accs := fun hs hmode => hdel.clean_advanced hadv (h.atByte hdecode) hs hmode (h.accs hdecode hmode).2
    ended := fun hs => (hadv.at_end hdecode hs).imp_left .inr }

end Invariant

/-! ### The step -/

section Steps

variable {s t : State}

/-- Under the invariant the delivery of a byte goes on (R154). -/
theorem deliver_of_inv (h : Inv s) (hdecode : s.status = .decode) :
    ∃ acc m, Delivery s s.runval acc m ∧
      deliver s = .next (afterByte s (s.runlen - 1#6) s.runval s.cur acc m) := by
  have htake : Inv (takeByte s) := { h with }
  obtain ⟨acc, m, hsink, hdel⟩ := sink_of_inv htake hdecode s.runval
  refine ⟨acc, m, { hdel with }, ?_⟩
  rw [deliver, hsink, andThen_next]
  rfl

/-- What a byte-step under the invariant that goes on has done: delivered a byte, with CUR moved forward within the
input, or raised TruncatedStream (R154). -/
theorem byteStep_of_inv (h : Inv s) (hdecode : s.status = .decode) (hstep : byteStep s = .next t) :
    (∃ n v c acc m, s.cur ≤ c ∧ (s.cur ≤ s.len → c ≤ s.len) ∧ Delivery s v acc m ∧ t = afterByte s n v c acc m) ∨
    (∃ n v c, s.cur ≤ c ∧ (s.cur ≤ s.len → c ≤ s.len) ∧ t = raise .truncatedStream 0#16 (setRun n v c s)) := by
  obtain ⟨n, v, c, hge, hle, ⟨-, hdeliver⟩ | rfl⟩ := byteStep_next hdecode hstep
  · obtain ⟨acc, m, hdel, hnext⟩ := deliver_of_inv (h.with_run n v hge hle) hdecode
    rw [setRun, hdeliver, Host.Outcome.next.injEq] at hnext
    exact .inl ⟨n - 1#6, v, c, acc, m, hge, hle, { hdel with }, hnext⟩
  · exact .inr ⟨n, v, c, hge, hle, rfl⟩

/-- Every step of the block keeps the invariant. -/
theorem Inv.after_blockStep (h : Inv s) (hstep : blockStep s = .next t) : Inv t := by
  unfold blockStep at hstep
  cases hstatus : s.status <;> simp only [hstatus] at hstep
  case idle => cases hstep; exact h
  case hdr =>
    obtain ⟨-, rfl⟩ | ⟨-, -, hexec⟩ := issue_magic_cases hstep
    · exact Inv.after_raise (e := .invalidMagic) h.inputWf nofun fun _ => rfl
    · exact h.after_magic hstatus hexec
  case dispatch =>
    obtain ⟨m, hm, rfl⟩ | ⟨-, rfl⟩ := issueKey_next hstep
    · exact h.after_selectMode hstatus hm
    · exact Inv.after_raise (e := .unsupportedFormat) h.inputWf nofun fun hne => absurd rfl hne
  case palload =>
    obtain ⟨-, -, rfl⟩ | ⟨-, -, -, rfl⟩ | ⟨hmarker, -, p, rfl⟩ := palloadStep_cases hstep
    · exact Inv.after_raise (e := .truncatedStream) h.inputWf nofun fun _ => rfl
    · exact Inv.after_raise (e := .missingPalette) h.inputWf nofun fun _ => rfl
    · exact h.after_decodeInit hstatus hmarker p
  case decode =>
    obtain ⟨n, v, c, acc, m, hge, hle, hdel, rfl⟩ | ⟨n, v, c, -, -, rfl⟩ := byteStep_of_inv h hstatus hstep
    · exact h.after_byte hstatus hdel n hge hle
    · exact Inv.after_raise (e := .truncatedStream) (s := setRun n v c s) h.inputWf nofun fun _ => rfl
  case done => cases hstep; exact h
  case error => cases hstep; exact h

/-- Settles O44: each move of the host, and each step of the block, keeps the invariant. -/
theorem everyStepKeepsTheInvariant : Obligations.EveryStepKeepsTheInvariant := by
  intro s t h hstep
  cases hhost : s.host with
  | nil =>
    rw [step_of_alone hhost] at hstep
    exact h.after_blockStep hstep
  | cons move rest =>
    rw [step_of_move hhost] at hstep
    have hrest : Inv (setHost rest s) := h.with_host rest
    obtain ⟨-, hblock⟩ | ⟨-, rfl⟩ | ⟨a, b, -, hbusy, rfl⟩ | ⟨n, -, hbusy, rfl⟩ | ⟨-, -, rfl⟩ | ⟨-, -, rfl⟩ :=
      hostMove_next hstep
    · exact hrest.after_blockStep hblock
    · exact Inv.after_reset _
    · exact hrest.with_input hbusy (Memory.write_wf a b hrest.inputWf)
    · exact hrest.with_input hbusy hrest.inputWf
    · exact hrest
    · exact hrest.after_start

end Steps

/-- Settles O34: the token fetch moves CUR forward within the input, and the delivery and the raise keep it. -/
theorem cursorOnlyMovesForward : Obligations.CursorOnlyMovesForward := by
  intro s t h halone hdecode hstep
  rw [step_of_decode halone hdecode] at hstep
  obtain ⟨-, -, -, -, -, hcur⟩ := h.counters hdecode
  obtain ⟨n, v, c, acc, m, hge, hle, -, rfl⟩ | ⟨n, v, c, hge, hle, rfl⟩ := byteStep_of_inv h hdecode hstep
  · obtain ⟨b, p, r, acc', st, hafter⟩ := afterByte_keeps s n v c acc m
    rw [hafter]
    exact ⟨hge, hle hcur, rfl⟩
  · exact ⟨hge, hle hcur, rfl⟩

end Sys2Proof.Machine
end

section
/-! PROOFS. Position and coverage (spec 41_rle_stream.md R155, R160; 42_pixel_palette.md R189): each byte-step delivers one
decoded byte, and PIX holds exactly the bytes the position has written. -/

namespace Sys2Proof.Machine

section Position

variable {s t : State}

/-! ### Position -/

theorem position_afterByte (h : Inv s) (hdecode : s.status = .decode) (n : BitVec 6) (v : Byte) (c : Nat)
    (acc : List (BitVec 4)) (m : Memory) : position (afterByte s n v c acc m) = position s + 1 := by
  have hat : AtByte (setPixels acc m (setRun n v c s)) := { h.atByte hdecode with }
  exact hat.position_advance

theorem imageBytes_afterByte (n : BitVec 6) (v : Byte) (c : Nat) (acc : List (BitVec 4)) (m : Memory) :
    imageBytes (afterByte s n v c acc m) = imageBytes s := by
  obtain ⟨b, p, r, acc', st, hafter⟩ := afterByte_keeps s n v c acc m
  rw [hafter]
  rfl

/-- A delivered byte leaves the block in DECODE or ends the image (R157). -/
theorem afterByte_status (h : Inv s) (hdecode : s.status = .decode) (n : BitVec 6) (v : Byte) (c : Nat)
    (acc : List (BitVec 4)) (m : Memory) :
    (afterByte s n v c acc m).status = .decode ∨ (afterByte s n v c acc m).status = .done := by
  have hat : AtByte (setPixels acc m (setRun n v c s)) := { h.atByte hdecode with }
  exact hat.advanced.status_cases hdecode

/-- In DECODE a decoded byte of the image is still to come. -/
theorem Inv.position_lt (h : Inv s) (hdecode : s.status = .decode) : position s < imageBytes s :=
  (h.atByte hdecode).position_lt

/-- In DONE every decoded byte of the image was delivered (R157). -/
theorem Inv.position_of_done (h : Inv s) (hdone : s.status = .done) : position s = imageBytes s := by
  obtain ⟨hend, hpln, hbcnt⟩ := h.ended hdone
  have hposition : position s = s.row.toNat * s.hdr.nplanes.toNat * s.hdr.bpl.toNat := by
    rw [position, byteNumber, hpln, hbcnt]
    rfl
  obtain ⟨hbpl, -⟩ | hrow := hend
  · rw [hposition, imageBytes, hbpl]
    rfl
  · have hheight : s.row.toNat = s.height.toNat := by omega
    rw [hposition, imageBytes, hheight]

end Position

/-- Settles O32: the delivery moves the position by one, DECODE is below the image's bytes, and DONE at them. -/
theorem positionMovesByOneByte : Obligations.PositionMovesByOneByte := by
  intro s t h halone hdecode hstep hok
  rw [step_of_decode halone hdecode] at hstep
  obtain ⟨n, v, c, acc, m, hge, hle, hdel, rfl⟩ | ⟨n, v, c, -, -, rfl⟩ := byteStep_of_inv h hdecode hstep
  · have hinv := h.after_byte hdecode hdel n hge hle
    have hbytes : imageBytes (afterByte s n v c acc m) = imageBytes s := imageBytes_afterByte n v c acc m
    refine ⟨position_afterByte h hdecode n v c acc m, ?_⟩
    rw [← hbytes]
    obtain hstatus | hstatus := afterByte_status h hdecode n v c acc m
    · have hlt := hinv.position_lt hstatus
      simp [hstatus, hlt, Nat.ne_of_lt hlt]
    · simp [hstatus, hinv.position_of_done hstatus]
  · exact absurd rfl hok

section Coverage

variable {s t : State}

/-! ### Coverage -/

theorem pixByte_afterByte (n : BitVec 6) (v : Byte) (c : Nat) (acc : List (BitVec 4)) (m : Memory) (a : Nat) :
    pixByte (afterByte s n v c acc m) a = m.read a := by
  rw [pixByte, afterByte, advance_pix]
  rfl

/-- The addresses written after a delivered byte: those before it, and its own (R66, R189). -/
theorem writtenBefore_afterByte (h : Inv s) (hdecode : s.status = .decode) (n : BitVec 6) (v : Byte) (c : Nat)
    (acc : List (BitVec 4)) (m : Memory) (a : Nat) :
    WrittenBefore (afterByte s n v c acc m) a ↔ WrittenBefore s a ∨ WritesNow s a := by
  have hat : AtByte (setPixels acc m (setRun n v c s)) := { h.atByte hdecode with }
  exact hat.writtenBefore_advance (h.pair (.inr (.inl hdecode))) a

/-- The delivery of a byte keeps the coverage. -/
theorem Covered.after_byte (h : Inv s) (hcovered : Covered s) (hdecode : s.status = .decode) (n : BitVec 6) {v : Byte}
    (c : Nat) {acc : List (BitVec 4)} {m : Memory} (hdel : Delivery s v acc m) :
    Covered (afterByte s n v c acc m) := by
  intro _ a
  rw [pixByte_afterByte, writtenBefore_afterByte h hdecode, hdel.read]
  by_cases hnow : WritesNow s a
  · rw [if_pos hnow]
    exact iff_of_true rfl (.inr hnow)
  · rw [if_neg hnow, or_iff_left hnow]
    exact hcovered (.inl hdecode) a

/-- At the first decoded byte no address has been written. -/
theorem not_writtenBefore_of_start (hrow : s.row = 0#17) (hpln : s.pln = 0#3) (hbcnt : s.bcnt = 0#16) (a : Nat) :
    ¬ WrittenBefore s a := by
  rintro ⟨-, -, hdelivered⟩
  rw [hrow, hpln, hbcnt] at hdelivered
  simp at hdelivered

theorem pixByte_of_pix_empty (h : s.pix = some []) (a : Nat) : pixByte s a = none := by
  rw [pixByte_of_pix_some h]
  rfl

/-- DECODE.INIT starts with an empty PIX and no byte delivered. -/
theorem Covered.after_decodeInit (h : Inv s) (hstatus : s.status = .palload) (p : Vector Byte 768) :
    Covered (decodeInit (setPal p s)) := by
  intro _ a
  have hpix : (decodeInit (setPal p s)).pix = some [] := h.fresh (.inr hstatus)
  rw [pixByte_of_pix_empty hpix]
  exact iff_of_false nofun (not_writtenBefore_of_start rfl rfl rfl a)

/-- Outside DECODE and DONE the coverage says nothing. -/
theorem Covered.of_status (hdecode : s.status ≠ .decode) (hdone : s.status ≠ .done) : Covered s :=
  fun h => (h.elim hdecode hdone).elim

/-- Every step of the block keeps the coverage. -/
theorem Covered.after_blockStep (h : Inv s) (hcovered : Covered s) (hstep : blockStep s = .next t) : Covered t := by
  unfold blockStep at hstep
  cases hstatus : s.status <;> simp only [hstatus] at hstep
  case idle => cases hstep; exact hcovered
  case hdr =>
    obtain ⟨-, rfl⟩ | ⟨-, -, hexec⟩ := issue_magic_cases hstep
    · exact Covered.of_status nofun nofun
    · obtain ⟨-, ⟨hs, -⟩ | ⟨hs, -⟩⟩ := exec_magic_keeps hexec <;> exact Covered.of_status (by simp [hs]) (by simp [hs])
  case dispatch =>
    obtain ⟨m, -, rfl⟩ | ⟨-, rfl⟩ := issueKey_next hstep <;> exact Covered.of_status nofun nofun
  case palload =>
    obtain ⟨-, -, rfl⟩ | ⟨-, -, -, rfl⟩ | ⟨-, -, p, rfl⟩ := palloadStep_cases hstep
    · exact Covered.of_status nofun nofun
    · exact Covered.of_status nofun nofun
    · exact Covered.after_decodeInit h hstatus p
  case decode =>
    obtain ⟨n, v, c, acc, m, -, -, hdel, rfl⟩ | ⟨n, v, c, -, -, rfl⟩ := byteStep_of_inv h hstatus hstep
    · exact hcovered.after_byte h hstatus n c hdel
    · exact Covered.of_status nofun nofun
  case done => cases hstep; exact hcovered
  case error => cases hstep; exact hcovered

end Coverage

/-- Settles O45: the block's steps keep the coverage; of the host's moves only reset and START write PIX or STATUS. -/
theorem everyStepKeepsTheCoverage : Obligations.EveryStepKeepsTheCoverage := by
  intro s t h hcovered hstep
  cases hhost : s.host with
  | nil =>
    rw [step_of_alone hhost] at hstep
    exact hcovered.after_blockStep h hstep
  | cons move rest =>
    rw [step_of_move hhost] at hstep
    have hrest : Covered (setHost rest s) := hcovered
    obtain ⟨-, hblock⟩ | ⟨-, rfl⟩ | ⟨a, b, -, -, rfl⟩ | ⟨n, -, -, rfl⟩ | ⟨-, -, rfl⟩ | ⟨-, -, rfl⟩ :=
      hostMove_next hstep
    · exact hrest.after_blockStep (h.with_host rest) hblock
    · exact Covered.of_status nofun nofun
    · exact hcovered
    · exact hcovered
    · exact hcovered
    · exact Covered.of_status nofun nofun

/-- Settles O47: a byte that holds a value was written by an earlier decoded byte, so the current one does not write it. -/
theorem pixBytesAreWrittenOnce : Obligations.PixBytesAreWrittenOnce := by
  intro s t a b h hcovered halone hdecode hstep hok hb
  rw [step_of_decode halone hdecode] at hstep
  obtain ⟨n, v, c, acc, m, -, -, hdel, rfl⟩ | ⟨n, v, c, -, -, rfl⟩ := byteStep_of_inv h hdecode hstep
  · have hwritten : WrittenBefore s a := (hcovered (.inl hdecode) a).mp (by rw [hb]; rfl)
    rw [pixByte_afterByte, hdel.read, if_neg (not_writesNow_of_writtenBefore hwritten), hb]
  · exact absurd rfl hok

/-- In DONE the addresses written are those whose covering byte exists (R189). -/
theorem Inv.writtenBefore_of_done {s : State} (h : Inv s) (hdone : s.status = .done) {a : Nat} (ha : a < pixSize s) :
    WrittenBefore s a ↔ coveringByte s (columnOf s a) < s.hdr.bpl.toNat := by
  have haccepted : s.status.accepted = true := by rw [hdone]; rfl
  have hwidth : 0 < s.width.toNat := by have := h.dims haccepted; omega
  have hline := (lt_pixSize_iff hwidth).mp ha
  obtain ⟨⟨hbpl, -⟩ | hrow, -⟩ := h.ended hdone
  · have hzero : s.hdr.bpl.toNat = 0 := (bpl_eq_zero_iff _).mpr hbpl
    simp only [WrittenBefore, Delivered, hzero, Nat.not_lt_zero, false_and, and_false]
  · exact ⟨fun hwritten => hwritten.2.1, fun hcover => ⟨ha, hcover, .inl (by omega)⟩⟩

/-- Settles O48: in DONE a byte of PIX was written exactly when the byte that covers its column exists. -/
theorem completedDecodeCoversTheColumns : Obligations.CompletedDecodeCoversTheColumns := by
  intro s h hcovered hdone a ha
  rw [hostReadPix, if_pos ⟨hdone, ha⟩]
  refine ((hcovered (.inr hdone) a).trans (h.writtenBefore_of_done hdone ha)).trans ?_
  cases hmode : s.mode
  case bp1 => simp only [coveringByte, hmode]; omega
  all_goals simp only [coveringByte, hmode]

end Sys2Proof.Machine
end

section
/-! PROOFS. The byte-step and the expanded stream (spec 41_rle_stream.md R153, R154, R156): with the file in IN a byte-step
delivers the next byte still to come, or raises when there is none, and no step of the block stops the machine. -/

namespace Sys2Proof.Machine

section Stream

variable {s : State}

/-! ### The bytes still to come -/

theorem inputFrom_of_end {a : Nat} (h : s.len ≤ a) : inputFrom s a = [] := by
  rw [inputFrom, Nat.sub_eq_zero_of_le h]
  rfl

theorem inputFrom_cons {a : Nat} (h : a < s.len) : inputFrom s a = inAt s a :: inputFrom s (a + 1) := by
  have hlen : s.len - a = s.len - (a + 1) + 1 := by omega
  rw [inputFrom, inputFrom, hlen, List.range_succ_eq_map, List.map_cons, List.map_map]
  refine congrArg _ (List.map_congr_left fun j _ => ?_)
  rw [Function.comp_apply, Nat.succ_eq_add_one, Nat.add_comm j, Nat.add_assoc]

/-- A byte of a loaded file is in IN. -/
theorem inByte_of_loaded (hloaded : Loaded s) {a : Nat} (ha : a < s.len) : inByte s a = some (inAt s a) := by
  obtain ⟨b, hb⟩ := Option.isSome_iff_exists.mp (hloaded a ha)
  rw [inAt, hb]
  rfl

/-- With no run active the bytes to come are those of the stream from CUR on. -/
theorem pending_of_no_run (h : s.runlen = 0#6) : pending s = expand (inputFrom s s.cur) := by
  rw [pending, h]
  rfl

theorem pending_setRun (n : BitVec 6) (v : Byte) (c : Nat) (s : State) :
    pending (setRun n v c s) = List.replicate n.toNat v ++ expand (inputFrom s c) := rfl

/-- A LIT at CUR makes a run of its byte (R151). -/
theorem pending_lit (hrun : s.runlen = 0#6) (hcur : s.cur < s.len) (hlit : isRun (inAt s s.cur) = false) :
    pending (setRun 1#6 (inAt s s.cur) (s.cur + 1) s) = pending s := by
  rw [pending_of_no_run hrun, inputFrom_cons hcur, expand_lit _ hlit]
  rfl

/-- A RUN at CUR makes a run of its count and value (R152). -/
theorem pending_run (hrun : s.runlen = 0#6) (hcur : s.cur + 1 < s.len) (hcontrol : isRun (inAt s s.cur) = true) :
    pending (setRun (runCount (inAt s s.cur)) (inAt s (s.cur + 1)) (s.cur + 2) s) = pending s := by
  rw [pending_of_no_run hrun, inputFrom_cons (Nat.lt_of_succ_lt hcur), inputFrom_cons hcur, expand_run _ _ hcontrol]
  rfl

/-- At the end of the stream no byte is to come (R153). -/
theorem pending_of_end (hrun : s.runlen = 0#6) (hend : s.len ≤ s.cur) : pending s = [] := by
  rw [pending_of_no_run hrun, inputFrom_of_end hend]
  rfl

theorem pending_of_cut (hrun : s.runlen = 0#6) (hcur : s.cur + 1 = s.len) (hcontrol : isRun (inAt s s.cur) = true) :
    pending s = [] := by
  rw [pending_of_no_run hrun, inputFrom_cons (by omega), inputFrom_of_end (Nat.le_of_eq hcur.symm), expand_cut hcontrol]

/-! ### The token fetch on a loaded file -/

theorem issue_token_lit (hloaded : Loaded s) (hcur : s.cur < s.len) (hlit : isRun (inAt s s.cur) = false) :
    issue .token s = .next (setRun 1#6 (inAt s s.cur) (s.cur + 1) s) := by
  rw [issue_token_of_not_isRun hcur (inByte_of_loaded hloaded hcur) hlit, execLit_eq, if_neg (Nat.not_le.mpr hcur)]
  rfl

theorem issue_token_run (hloaded : Loaded s) (hcur : s.cur + 1 < s.len) (hcontrol : isRun (inAt s s.cur) = true) :
    issue .token s = .next (setRun (runCount (inAt s s.cur)) (inAt s (s.cur + 1)) (s.cur + 2) s) := by
  rw [issue_token_of_isRun hcur (inByte_of_loaded hloaded (Nat.lt_of_succ_lt hcur)) hcontrol
    (inByte_of_loaded hloaded hcur), execRun_eq, if_neg (Nat.not_le.mpr hcur)]
  rfl

/-- After a token the byte-step goes on as a byte-step (R154). -/
theorem byteStep_after_token {n : BitVec 6} {v : Byte} {c : Nat} (hdecode : s.status = .decode) (hrun : s.runlen = 0#6)
    (htoken : issue .token s = .next (setRun n v c s)) : byteStep s = byteStep (setRun n v c s) := by
  have hdecode' : (setRun n v c s).status = .decode := hdecode
  rw [byteStep_fetch hrun, htoken, andThen_next, if_pos hdecode']

/-- Where the token fetch of a byte-step comes to an active run, the bytes to come being the same (R154). -/
structure Fetched (s : State) (n : BitVec 6) (v : Byte) (c : Nat) : Prop where
  active : n ≠ 0#6
  forward : s.cur ≤ c
  inside : s.cur ≤ s.len → c ≤ s.len
  delivers : byteStep s = deliver (setRun n v c s)
  pending : pending (setRun n v c s) = pending s

/-- What a byte-step on a loaded file comes to: a delivery from an active run, or a raise when no byte is to come. -/
def FetchEnds (s : State) : Prop :=
  (∃ n v c, Fetched s n v c) ∨
  (pending s = [] ∧ ∃ v c, byteStep s = .next (raise .truncatedStream 0#16 (setRun 0#6 v c s)))

/-- A byte-step whose token is followed by a byte-step that ends well ends well. -/
theorem FetchEnds.before_token {n : BitVec 6} {v : Byte} {c : Nat} (hdecode : s.status = .decode) (hrun : s.runlen = 0#6)
    (htoken : issue .token s = .next (setRun n v c s)) (hpending : pending (setRun n v c s) = pending s)
    (hge : s.cur ≤ c) (hle : c ≤ s.len) (h : FetchEnds (setRun n v c s)) : FetchEnds s := by
  have hstep := byteStep_after_token hdecode hrun htoken
  obtain ⟨n', v', c', hfetch⟩ | ⟨hnone, v', c', hraise⟩ := h
  · exact .inl ⟨n', v', c', hfetch.active, hge.trans hfetch.forward, fun _ => hfetch.inside hle,
      hstep.trans hfetch.delivers, hfetch.pending.trans hpending⟩
  · exact .inr ⟨hpending.symm.trans hnone, v', c', hstep.trans hraise⟩

/-- A byte-step with a run active delivers from it. -/
theorem FetchEnds.of_active (hdecode : s.status = .decode) (hrun : s.runlen ≠ 0#6) : FetchEnds s :=
  .inl ⟨s.runlen, s.runval, s.cur, hrun, Nat.le_refl _, id, byteStep_of_active hdecode hrun, rfl⟩

theorem FetchEnds.of_end (hrun : s.runlen = 0#6) (hpending : pending s = []) (hend : AtStreamEnd s) : FetchEnds s := by
  refine .inr ⟨hpending, s.runval, s.cur, ?_⟩
  rw [byteStep_of_atStreamEnd hrun hend, ← hrun]
  rfl

/-- With the file in IN a byte-step delivers from an active run, or raises when no byte is to come (R153, R154): by the
bytes left to fetch. -/
theorem fetchEnds_of_loaded (hloaded : Loaded s) (hdecode : s.status = .decode) : FetchEnds s := by
  induction hleft : s.len - s.cur using Nat.strong_induction_on generalizing s with
  | _ left ih =>
    by_cases hrun : s.runlen = 0#6
    swap
    · exact FetchEnds.of_active hdecode hrun
    by_cases hcur : s.cur < s.len
    swap
    · exact FetchEnds.of_end hrun (pending_of_end hrun (not_lt.mp hcur)) (.inl (not_lt.mp hcur))
    cases hcontrol : isRun (inAt s s.cur) with
    | false =>
      refine FetchEnds.before_token hdecode hrun (issue_token_lit hloaded hcur hcontrol) (pending_lit hrun hcur hcontrol)
        (Nat.le_succ _) hcur ?_
      exact FetchEnds.of_active hdecode (show (1#6 : BitVec 6) ≠ 0#6 by decide)
    | true =>
      obtain hcut | hmore := Nat.eq_or_lt_of_le (Nat.succ_le_of_lt hcur)
      · exact FetchEnds.of_end hrun (pending_of_cut hrun hcut hcontrol)
          (.inr ⟨hcut, _, inByte_of_loaded hloaded hcur, hcontrol⟩)
      · refine FetchEnds.before_token hdecode hrun (issue_token_run hloaded hmore hcontrol)
          (pending_run hrun hmore hcontrol) (Nat.le_add_right _ _) hmore ?_
        refine ih _ ?_ (s := setRun _ _ _ s) hloaded hdecode rfl
        show s.len - (s.cur + 2) < left
        omega

/-! ### The byte-step by the bytes to come -/

/-- The bytes to come when a run is active: its value, and what follows. -/
theorem pending_active {n : BitVec 6} (hn : n ≠ 0#6) (v : Byte) (c : Nat) (s : State) :
    pending (setRun n v c s) = v :: pending (setRun (n - 1#6) v c s) := by
  have hcount : n.toNat = (n - 1#6).toNat + 1 := by bv_omega
  rw [pending_setRun, pending_setRun, hcount, List.replicate_succ, List.cons_append]

theorem pending_afterByte (n : BitVec 6) (v : Byte) (c : Nat) (acc : List (BitVec 4)) (m : Memory) :
    pending (afterByte s n v c acc m) = pending (setRun n v c s) := by
  obtain ⟨b, p, r, acc', st, hafter⟩ := afterByte_keeps s n v c acc m
  rw [hafter]
  rfl

/-- The byte-step that delivers `b`: what it writes, and the sink it gives the byte to. -/
structure Delivers (s : State) (b : Byte) (rest : List Byte) (t : State) : Prop where
  step : byteStep s = .next t
  pending : pending t = rest
  after : ∃ n c acc m, s.cur ≤ c ∧ (s.cur ≤ s.len → c ≤ s.len) ∧ Delivery s b acc m ∧
    sink b (setRun n b c s) = .next (setPixels acc m (setRun n b c s)) ∧ t = afterByte s n b c acc m

/-- With a byte to come the byte-step delivers it (R154). -/
theorem byteStep_of_pending_cons (h : Inv s) (hloaded : Loaded s) (hdecode : s.status = .decode) {b : Byte}
    {rest : List Byte} (hpending : pending s = b :: rest) : ∃ t, Delivers s b rest t := by
  obtain ⟨n, v, c, hfetch⟩ | ⟨hnone, -⟩ := fetchEnds_of_loaded hloaded hdecode
  · have hbytes := hfetch.pending
    rw [pending_active hfetch.active, hpending] at hbytes
    obtain ⟨rfl, rfl⟩ := List.cons.inj hbytes
    have hinv := h.with_run (n - 1#6) v hfetch.forward hfetch.inside
    obtain ⟨acc, m, hsink, hdel⟩ := sink_of_inv hinv hdecode v
    have hdeliver : deliver (setRun n v c s) = .next (afterByte s (n - 1#6) v c acc m) :=
      andThen_eq_next.mpr ⟨_, hsink, rfl⟩
    exact ⟨_, hfetch.delivers.trans hdeliver, pending_afterByte .., n - 1#6, c, acc, m, hfetch.forward, hfetch.inside,
      { hdel with }, hsink, rfl⟩
  · rw [hnone] at hpending; cases hpending

/-- With no byte to come the byte-step raises TruncatedStream (R153). -/
theorem byteStep_of_pending_nil (hloaded : Loaded s) (hdecode : s.status = .decode) (hpending : pending s = []) :
    ∃ v c, byteStep s = .next (raise .truncatedStream 0#16 (setRun 0#6 v c s)) := by
  obtain ⟨n, v, c, hfetch⟩ | ⟨-, hraise⟩ := fetchEnds_of_loaded hloaded hdecode
  · have hbytes := hfetch.pending
    rw [pending_active hfetch.active, hpending] at hbytes
    cases hbytes
  · exact hraise

/-! ### No step stops the machine -/

/-- On a loaded file the HDR step goes on (R121 to R125). -/
theorem issue_magic_answers (hwf : s.input.wf) (hloaded : Loaded s) : ∃ t, issue .magic s = .next t := by
  obtain hlen | hlen := Nat.eq_zero_or_pos s.len
  · exact ⟨_, issue_magic_of_empty hlen⟩
  have hb := inByte_of_loaded hloaded hlen
  by_cases hmagic : inAt s 0 = 10#8
  · rw [hmagic] at hb
    rw [issue_magic_of_magic hlen hb]
    obtain hshort | hlong := Nat.lt_or_ge s.len 128
    · exact ⟨_, exec_magic_of_short hshort⟩
    · rw [exec_magic_of_loaded hwf hloaded hlong, openImage_eq]
      exact ⟨_, rfl⟩
  · exact ⟨_, issue_magic_of_ne hlen hb hmagic⟩

/-- On a loaded file the PALLOAD step goes on (R127 to R130). -/
theorem palloadStep_answers (hwf : s.input.wf) (hloaded : Loaded s) (hmode : s.mode ≠ .none) :
    ∃ t, palloadStep s = .next t := by
  cases hm : s.mode with
  | none => exact absurd hm hmode
  | idx8 =>
    rw [palloadStep_of_idx8 hm]
    obtain hshort | hlong := Nat.lt_or_ge s.len 769
    · exact ⟨_, issue_marker_of_short hshort⟩
    have hb := inByte_of_loaded hloaded (show s.len - 769 < s.len by omega)
    by_cases hmarker : inAt s (s.len - 769) = 12#8
    · rw [hmarker] at hb
      rw [issue_marker_of_marker hlong hb]
      exact ⟨_, exec_palmark_of_loaded hwf hloaded hlong⟩
    · exact ⟨_, issue_marker_of_ne hlong hb hmarker⟩
  | rgb24 => exact ⟨_, palloadStep_of_rgb24 hm⟩
  | bp1 => exact ⟨_, palloadStep_of_bp1 hm⟩

/-- On a loaded file a byte-step goes on. -/
theorem byteStep_answers (h : Inv s) (hloaded : Loaded s) (hdecode : s.status = .decode) :
    ∃ t, byteStep s = .next t := by
  cases hpending : pending s with
  | nil =>
    obtain ⟨v, c, hraise⟩ := byteStep_of_pending_nil hloaded hdecode hpending
    exact ⟨_, hraise⟩
  | cons b rest =>
    obtain ⟨t, hdelivers⟩ := byteStep_of_pending_cons h hloaded hdecode hpending
    exact ⟨t, hdelivers.step⟩

/-- The mode of a supported pair is a mode. -/
theorem supportedPair_mode_ne_none {bpp nplanes : Byte} {m : Mode} (h : SupportedPair bpp nplanes m) : m ≠ .none := by
  obtain ⟨-, -, rfl⟩ | ⟨-, -, rfl⟩ | ⟨-, -, -, rfl⟩ := h <;> decide

theorem blockStep_answers (h : Inv s) (hloaded : Loaded s) : ∃ t, blockStep s = .next t := by
  unfold blockStep
  cases hstatus : s.status with
  | idle => exact ⟨s, rfl⟩
  | hdr => exact issue_magic_answers h.inputWf hloaded
  | dispatch => exact issue_key_answers s
  | palload => exact palloadStep_answers h.inputWf hloaded (supportedPair_mode_ne_none (h.pair (.inl hstatus)))
  | decode => exact byteStep_answers h hloaded hstatus
  | done => exact ⟨s, rfl⟩
  | error => exact ⟨s, rfl⟩

/-- The file stays in IN over a step of the block. -/
theorem loaded_after_blockStep {t : State} (hloaded : Loaded s) (h : blockStep s = .next t) : Loaded t := by
  obtain ⟨hinput, hlen, -⟩ := blockStep_keeps_input h
  intro a ha
  rw [inByte, hinput]
  exact hloaded a (hlen ▸ ha)

end Stream

/-! ### The obligations -/

/-- Settles O33: the fetch comes to an active run that begins the bytes to come, or to none when there are none. -/
theorem byteStepDeliversTheNextByte : Obligations.ByteStepDeliversTheNextByte := by
  intro s h hloaded halone hdecode
  rw [step_of_decode halone hdecode]
  refine ⟨fun b rest hpending => ?_, fun hpending => ?_⟩
  · obtain ⟨t, hstep, hrest, n, c, acc, m, -, -, -, hsink, ht⟩ := byteStep_of_pending_cons h hloaded hdecode hpending
    obtain ⟨bc, p, r, acc', st, hafter⟩ := afterByte_keeps s n b c acc m
    have hrunlen : t.runlen = n := by rw [ht, hafter]
    have hrunval : t.runval = b := by rw [ht, hafter]
    have hcur : t.cur = c := by rw [ht, hafter]
    refine ⟨t, hstep, hrunval, hrest, setPixels acc m (setRun n b c s), ?_, ht⟩
    rw [hrunlen, hcur]
    exact hsink
  · obtain ⟨v, c, hraise⟩ := byteStep_of_pending_nil hloaded hdecode hpending
    exact ⟨_, hraise, rfl, rfl, rfl, rfl⟩

/-- Settles O49: in every phase the step on a loaded file goes on, and the block writes neither IN nor LEN. -/
theorem loadedBlockNeverStops : Obligations.LoadedBlockNeverStops := by
  intro s h hloaded halone
  obtain ⟨t, hstep⟩ := blockStep_answers h hloaded
  exact ⟨t, by rw [step_of_alone halone, hstep], loaded_after_blockStep hloaded hstep⟩

end Sys2Proof.Machine
end

section
/-! PROOFS. Whole runs (spec 60_exceptions.md R217; 41_rle_stream.md R157, R161; 70_reset_and_hazards.md R262): the phase
steps report the first error of the configuration, a decode ends by the length of its stream, and every START ends. -/

namespace Sys2Proof.Machine

section Runs

variable {s t : State}

/-! ### Runs -/

/-- A run whose step answers goes on as the run from there. -/
theorem run_of_step {s t : State} (h : step s = .next t) (k : Nat) : core.run (k + 1) s = core.run k t := by
  rw [run_succ, h]
  rfl

/-- A run of more steps goes on from where the shorter one has come. -/
theorem run_of_run {j : Nat} {s t : State} (h : core.run j s = .next t) (k : Nat) :
    core.run (j + k) s = core.run k t := by
  induction j generalizing s with
  | zero => cases h; rw [Nat.zero_add]
  | succ j ih =>
    obtain ⟨u, hstep, hrun⟩ := andThen_eq_next.mp ((run_succ j s).symm.trans h)
    rw [Nat.succ_add, run_of_step hstep, ih hrun]

/-- In ERROR and DONE with no move of the host the state stays (R229). -/
theorem run_of_ended (halone : s.host = []) (h : Ended s) (k : Nat) : core.run k s = .next s := by
  have hbusy : busy s = false := busy_eq_false_iff.mpr (.inr h)
  exact run_of_step_self (by rw [step_of_alone halone, blockStep_of_not_busy hbusy]) k

/-- A run whose first step raises ends there. -/
theorem run_of_raise (halone : s.host = []) {e : Err} {info : BitVec 16} {u : State} (k : Nat)
    (h : blockStep s = .next (raise e info u)) (hu : u.host = s.host) : core.run (k + 1) s = .next (raise e info u) := by
  rw [run_of_step ((step_of_alone halone).trans h)]
  exact run_of_ended (s := raise e info u) (hu.trans halone) (.inr rfl) k

/-! ### The configuration (R217) -/

/-- How the configuration ends: with error `e` in ERROR, or with header `hd` at the entry of DECODE, or in DONE with
BPL = 0. -/
structure ConfigEnd (e : Err) (hd : Header) (t : State) : Prop where
  err : t.err = e
  header : e = .none → t.hdr = hd
  phase : e = .none → t.status = .decode ∧ hd.bpl ≠ 0#16 ∨ t.status = .done ∧ hd.bpl = 0#16
  error : e ≠ .none → t.status = .error
  entry : t.status = .decode → DecodeEntry t

theorem ConfigEnd.of_raise {e : Err} (he : e ≠ .none) (info : BitVec 16) (hd : Header) (u : State) :
    ConfigEnd e hd (raise e info u) where
  err := rfl
  header := fun h => absurd h he
  phase := fun h => absurd h he
  error := fun _ => rfl
  entry := nofun

/-- The error the palette checks report for a pair (R217, items 5 and 6). -/
def paletteError (s : State) (bpp nplanes : Byte) : Err :=
  if bpp = 8#8 ∧ nplanes = 1#8 ∧ s.len < 769 then .truncatedStream
  else if bpp = 8#8 ∧ nplanes = 1#8 ∧ inAt s (s.len - 769) ≠ 12#8 then .missingPalette
  else .none

/-- The error the format check and the palette checks report for a pair (R217, items 4 to 6). -/
def formatError (s : State) (bpp nplanes : Byte) : Err :=
  if ¬ (bpp = 8#8 ∧ (nplanes = 1#8 ∨ nplanes = 3#8) ∨ bpp = 1#8 ∧ 1 ≤ nplanes.toNat ∧ nplanes.toNat ≤ 4) then
    .unsupportedFormat
  else paletteError s bpp nplanes

/-- The configuration errors in the order of their checks (R217). -/
theorem configError_eq (s : State) : configError s =
    if s.len = 0 ∨ inAt s 0 ≠ 10#8 then .invalidMagic
    else if s.len < 128 then .truncatedStream
    else if EmptyBox s then .invalidDimensions
    else formatError s (inAt s 3) (inAt s 65) := rfl

/-- The pairs of the format check are the supported ones (R99, R126). -/
theorem supportedPair_exists_iff (bpp nplanes : Byte) : (∃ m, SupportedPair bpp nplanes m) ↔
    bpp = 8#8 ∧ (nplanes = 1#8 ∨ nplanes = 3#8) ∨ bpp = 1#8 ∧ 1 ≤ nplanes.toNat ∧ nplanes.toNat ≤ 4 := by
  constructor
  · rintro ⟨m, ⟨hb, hn, -⟩ | ⟨hb, hn, -⟩ | ⟨hb, hlo, hhi, -⟩⟩
    · exact .inl ⟨hb, .inl hn⟩
    · exact .inl ⟨hb, .inr hn⟩
    · exact .inr ⟨hb, hlo, hhi⟩
  · rintro (⟨hb, hn | hn⟩ | ⟨hb, hlo, hhi⟩)
    · exact ⟨.idx8, .inl ⟨hb, hn, rfl⟩⟩
    · exact ⟨.rgb24, .inr (.inl ⟨hb, hn, rfl⟩)⟩
    · exact ⟨.bp1, .inr (.inr ⟨hb, hlo, hhi, rfl⟩)⟩

/-- IDX8 is the mode of the pair (8, 1) alone (R99). -/
theorem mode_idx8_iff {bpp nplanes : Byte} {m : Mode} (h : SupportedPair bpp nplanes m) :
    m = .idx8 ↔ bpp = 8#8 ∧ nplanes = 1#8 := by
  refine ⟨fun hm => ?_, fun ⟨hb, hn⟩ => supportedPair_mode_unique h (.inl ⟨hb, hn, rfl⟩)⟩
  subst hm
  obtain ⟨hb, hn, -⟩ | ⟨-, -, hm⟩ | ⟨-, -, -, hm⟩ := h
  · exact ⟨hb, hn⟩
  · cases hm
  · cases hm

/-- A run of the block alone on a loaded file: what every step keeps. -/
structure Alone (s : State) : Prop where
  inv : Inv s
  loaded : Loaded s
  alone : s.host = []

theorem Alone.after (h : Alone s) (hstep : blockStep s = .next t) : Alone t where
  inv := h.inv.after_blockStep hstep
  loaded := loaded_after_blockStep h.loaded hstep
  alone := (blockStep_keeps_input hstep).2.2.2.trans h.alone

/-- In the phases of the configuration no error is reported (R39). -/
theorem Alone.err_of_status (h : Alone s) (hstatus : s.status ≠ .error) : s.err = .none :=
  not_not.mp (mt h.inv.errIff.mp hstatus)

/-- DECODE.INIT ends the configuration (R150, R158). -/
theorem Alone.configEnd_decodeInit (h : Alone s) (hstatus : s.status = .palload) {p : Vector Byte 768}
    (hstep : blockStep s = .next (decodeInit (setPal p s))) : ConfigEnd .none s.hdr (decodeInit (setPal p s)) where
  err := h.err_of_status (by simp [hstatus])
  header := fun _ => rfl
  phase := fun _ => decodeInit_status_cases (setPal p s)
  error := fun hne => absurd rfl hne
  entry := fun hdecode =>
    { inv := (h.after hstep).inv, loaded := (h.after hstep).loaded, phase := hdecode
      atStart := ⟨rfl, rfl, rfl, rfl, rfl⟩, fresh := h.inv.fresh (.inr hstatus), alone := h.alone }

/-- The PALLOAD step reports the palette checks (R127 to R130). -/
theorem Alone.run_palload (h : Alone s) (hstatus : s.status = .palload) :
    ∃ t, core.run 1 s = .next t ∧ ConfigEnd (paletteError s s.hdr.bpp s.hdr.nplanes) s.hdr t := by
  have hidx8 := mode_idx8_iff (h.inv.pair (.inl hstatus))
  obtain ⟨t, hstep⟩ := blockStep_answers h.inv h.loaded
  have hrun : core.run 1 s = .next t := run_of_step ((step_of_alone h.alone).trans hstep) 0
  refine ⟨t, hrun, ?_⟩
  have hpalload : palloadStep s = .next t := by simpa only [blockStep, hstatus] using hstep
  unfold paletteError
  simp only [← and_assoc, ← hidx8]
  obtain ⟨hmode, hlen, rfl⟩ | ⟨hmode, hlen, ⟨b, hb, hne⟩, rfl⟩ | ⟨hmarker, -, p, rfl⟩ := palloadStep_cases hpalload
  · rw [if_pos ⟨hmode, hlen⟩]
    exact ConfigEnd.of_raise (e := .truncatedStream) nofun ..
  · have hat : inAt s (s.len - 769) = b := by rw [inAt, hb]; rfl
    rw [if_neg (fun hshort => by omega), if_pos ⟨hmode, hat ▸ hne⟩]
    exact ConfigEnd.of_raise (e := .missingPalette) nofun ..
  · have hlong : ¬ (s.mode = .idx8 ∧ s.len < 769) := fun ⟨hmode, hshort⟩ => by have := (hmarker hmode).1; omega
    have hpresent : ¬ (s.mode = .idx8 ∧ inAt s (s.len - 769) ≠ 12#8) := fun ⟨hmode, hne⟩ =>
      hne (by rw [inAt, (hmarker hmode).2]; rfl)
    rw [if_neg hlong, if_neg hpresent]
    exact h.configEnd_decodeInit hstatus hstep

/-- The DISPATCH step reports the format check, and the PALLOAD step what is left (R126). -/
theorem Alone.run_dispatch (h : Alone s) (hstatus : s.status = .dispatch) :
    ∃ t, core.run 2 s = .next t ∧ ConfigEnd (formatError s s.hdr.bpp s.hdr.nplanes) s.hdr t := by
  have hblock : blockStep s = issue .key s := by simp only [blockStep, hstatus]
  unfold formatError
  by_cases hpair : ∃ m, SupportedPair s.hdr.bpp s.hdr.nplanes m
  · obtain ⟨m, hm⟩ := hpair
    have hstep : blockStep s = .next (selectMode m s) := hblock.trans (issue_key_of_supported hm)
    obtain ⟨t, hrun, hend⟩ := (h.after hstep).run_palload (selectMode_status ..)
    rw [if_neg (not_not.mpr ((supportedPair_exists_iff _ _).mp ⟨m, hm⟩))]
    exact ⟨t, (run_of_step ((step_of_alone h.alone).trans hstep) _).trans hrun, hend⟩
  · have hraise := issue_key_of_unsupported fun m hm => hpair ⟨m, hm⟩
    rw [if_pos (mt (supportedPair_exists_iff _ _).mpr hpair)]
    exact ⟨_, run_of_raise h.alone 1 (hblock.trans hraise) rfl,
      ConfigEnd.of_raise (e := .unsupportedFormat) nofun ..⟩

/-- The HDR step reports the header checks, and the next two steps what is left (R121 to R125). -/
theorem Alone.run_hdr (h : Alone s) (hstatus : s.status = .hdr) :
    ∃ t, core.run 3 s = .next t ∧ ConfigEnd (configError s) (headerAt s) t := by
  have hblock : blockStep s = issue .magic s := by simp only [blockStep, hstatus]
  rw [configError_eq]
  by_cases hbad : s.len = 0 ∨ inAt s 0 ≠ 10#8
  · have hcause : BadMagic s := by
      obtain hlen | hlen := Nat.eq_zero_or_pos s.len
      · exact .inl hlen
      · exact .inr ⟨hlen, _, inByte_of_loaded h.loaded hlen, hbad.resolve_left (Nat.ne_of_gt hlen)⟩
    rw [if_pos hbad]
    exact ⟨_, run_of_raise h.alone 2 (hblock.trans (issue_magic_of_bad hcause)) rfl,
      ConfigEnd.of_raise (e := .invalidMagic) nofun ..⟩
  rw [if_neg hbad]
  obtain ⟨hlen, hmagic⟩ := not_or.mp hbad
  have hpos : 0 < s.len := Nat.pos_of_ne_zero hlen
  have hexec : blockStep s = exec .magic s :=
    hblock.trans (issue_magic_of_magic hpos (not_not.mp hmagic ▸ inByte_of_loaded h.loaded hpos))
  by_cases hshort : s.len < 128
  · rw [if_pos hshort]
    exact ⟨_, run_of_raise h.alone 2 (hexec.trans (exec_magic_of_short hshort)) rfl,
      ConfigEnd.of_raise (e := .truncatedStream) nofun ..⟩
  rw [if_neg hshort]
  have hlong : 128 ≤ s.len := not_lt.mp hshort
  by_cases hbox : EmptyBox s
  · have hraise := exec_magic_of_emptyBox h.inv.inputWf h.loaded hlong hbox
    rw [if_pos hbox]
    exact ⟨_, run_of_raise h.alone 2 (hexec.trans hraise) rfl,
      ConfigEnd.of_raise (e := .invalidDimensions) nofun ..⟩
  · have hstep : blockStep s = .next (openPix (headerLoaded s)) :=
      hexec.trans (exec_magic_of_box h.inv.inputWf h.loaded hlong hbox)
    obtain ⟨t, hrun, hend⟩ := (h.after hstep).run_dispatch (openPix_status _)
    rw [if_neg hbox]
    exact ⟨t, (run_of_step ((step_of_alone h.alone).trans hstep) _).trans hrun, hend⟩

/-! ### The decode -/

theorem DecodeEntry.toAlone (h : DecodeEntry s) : Alone s := ⟨h.inv, h.loaded, h.alone⟩

/-- What a run of the rest of an image comes to: DONE when the bytes to come are enough, else TruncatedStream. -/
structure DecodeEnd (s : State) (n : Nat) (t : State) : Prop where
  imageBytes : imageBytes t = imageBytes s
  done : n ≤ (pending s).length → t.status = .done ∧ t.err = .none
  truncated : (pending s).length < n → t.status = .error ∧ t.err = .truncatedStream ∧ t.errinfo = 0#16

/-- The byte-steps that are left end the decode (R157, R161): by their number. -/
theorem Alone.run_decode (h : Alone s) (hdecode : s.status = .decode) {n : Nat}
    (hn : position s + n = imageBytes s) : ∃ t, core.run n s = .next t ∧ DecodeEnd s n t := by
  induction n generalizing s with
  | zero => exact absurd (h.inv.position_lt hdecode) (by omega)
  | succ n ih =>
    have hblock : blockStep s = byteStep s := by simp only [blockStep, hdecode]
    cases hpending : pending s with
    | nil =>
      obtain ⟨v, c, hraise⟩ := byteStep_of_pending_nil h.loaded hdecode hpending
      refine ⟨_, run_of_raise h.alone n (hblock.trans hraise) rfl, rfl, fun hle => ?_, fun _ => ⟨rfl, rfl, rfl⟩⟩
      rw [hpending] at hle
      cases hle
    | cons b rest =>
      obtain ⟨t, hstep, hrest, m, c, acc, pix, -, -, -, -, rfl⟩ :=
        byteStep_of_pending_cons h.inv h.loaded hdecode hpending
      have hafter := h.after (hblock.trans hstep)
      have hposition := position_afterByte h.inv hdecode m b c acc pix
      have hbytes : imageBytes (afterByte s m b c acc pix) = imageBytes s := imageBytes_afterByte m b c acc pix
      have hlength : (pending s).length = (pending (afterByte s m b c acc pix)).length + 1 := by
        rw [hpending, hrest, List.length_cons]
      have hrun : core.run (n + 1) s = core.run n (afterByte s m b c acc pix) :=
        run_of_step ((step_of_alone h.alone).trans (hblock.trans hstep)) n
      rw [hrun]
      obtain hstatus | hstatus := afterByte_status h.inv hdecode m b c acc pix
      · obtain ⟨u, hu, hend⟩ := ih hafter hstatus (by omega)
        exact ⟨u, hu, hend.imageBytes.trans hbytes, fun hle => hend.done (by omega), fun hlt => hend.truncated (by omega)⟩
      · have hn0 : n = 0 := by have := hafter.inv.position_of_done hstatus; omega
        have herr := hafter.err_of_status (by simp [hstatus])
        exact ⟨_, run_of_ended hafter.alone (.inl hstatus) n, hbytes, fun _ => ⟨hstatus, herr⟩, fun hlt => by omega⟩

/-- At the entry of DECODE no byte is delivered and the whole stream is to come (R150). -/
theorem DecodeEntry.position_eq (h : DecodeEntry s) : position s = 0 := by
  obtain ⟨-, -, hrow, hpln, hbcnt⟩ := h.atStart
  simp [position, byteNumber, hrow, hpln, hbcnt]

theorem DecodeEntry.pending_eq (h : DecodeEntry s) : pending s = expand (inputFrom s 128) := by
  obtain ⟨hcur, hrun, -⟩ := h.atStart
  rw [pending_of_no_run hrun, hcur]
  rfl

theorem DecodeEntry.run (h : DecodeEntry s) :
    ∃ t, core.run (imageBytes s) s = .next t ∧ DecodeEnd s (imageBytes s) t :=
  h.toAlone.run_decode h.phase (by rw [h.position_eq, Nat.zero_add])

theorem DecodeEnd.ended {n : Nat} (h : DecodeEnd s n t) : Ended t := by
  obtain hle | hlt := Nat.lt_or_ge (pending s).length n |>.symm
  · exact .inl (h.done hle).1
  · exact .inr (h.truncated hlt).1

/-! ### A START -/

/-- From HDR the block ends within three phase steps and the byte-steps of the image (R161). -/
theorem Alone.ends (h : Alone s) (hstatus : s.status = .hdr) :
    ∃ k t, core.run k s = .next t ∧ Ended t ∧ k ≤ 3 + imageBytes t := by
  obtain ⟨u, hconfig, hend⟩ := h.run_hdr hstatus
  by_cases hdecode : u.status = .decode
  · obtain ⟨t, hrun, hdone⟩ := (hend.entry hdecode).run
    refine ⟨3 + imageBytes u, t, (run_of_run hconfig _).trans hrun, hdone.ended, ?_⟩
    rw [hdone.imageBytes]
  · refine ⟨3, u, hconfig, ?_, Nat.le_add_right _ _⟩
    by_cases he : configError s = .none
    · obtain ⟨hs, -⟩ | ⟨hs, -⟩ := hend.phase he
      · exact absurd hs hdecode
      · exact .inl hs
    · exact .inr (hend.error he)

end Runs

/-! ### The obligations -/

/-- Settles O50: each phase step reports its checks, in their order. -/
theorem configurationReportsTheFirstError : Obligations.ConfigurationReportsTheFirstError := by
  intro s h hloaded halone hstatus
  obtain ⟨t, hrun, hend⟩ := Alone.run_hdr ⟨h, hloaded, halone⟩ hstatus
  refine ⟨t, hrun, hend.err, fun he => ⟨hend.header he, ?_⟩, hend.error⟩
  rw [hend.header he]
  exact hend.phase he

/-- Settles O51: from the entry the whole stream is to come, and the image's bytes are to be delivered. -/
theorem decodeEndsAsTheStreamLengthSays : Obligations.DecodeEndsAsTheStreamLengthSays := by
  intro s h
  obtain ⟨t, hrun, hend⟩ := h.run
  rw [← h.pending_eq]
  exact ⟨t, hrun, hend.done, hend.truncated⟩

/-- Settles O52: START enters HDR, and from there the block ends. -/
theorem everyStartEnds : Obligations.EveryStartEnds := by
  intro s h hloaded hbusy hhost
  have hstart : Alone (start (setHost [] s)) := ⟨(h.with_host []).after_start, hloaded, rfl⟩
  obtain ⟨k, t, hrun, hend, hk⟩ := hstart.ends rfl
  exact ⟨k, t, by rw [run_start k hbusy hhost, hrun], hend, hk⟩

end Sys2Proof.Machine
end

section
/-! PROOFS. The decoded image (spec 42_pixel_palette.md R181 to R189): in every state of a decode PIX holds, at the
addresses written so far, the image the expanded stream stands for. -/

namespace Sys2Proof.Machine

section Image

variable {s t : State} {d : List Byte} {a : Nat}

/-! ### The image of a stream -/

/-- The bit of plane `q` at column `x` of row `y` in the stream `d` (R183). -/
def imageBit (s : State) (d : List Byte) (y q x : Nat) : Bool :=
  columnBit Config.bitOrder (d.getD (byteNumber s y q (x / 8)) 0#8) (x % 8)

/-- The byte of a palette index whose bits are those of the first `n` planes (R183). -/
def planeBits (s : State) (d : List Byte) (y x n : Nat) : Byte :=
  (List.range n).foldl (fun idx p => idx ||| (if imageBit s d y p x then 1#8 else 0#8) <<< p) 0#8

theorem planeIndex_eq (s : State) (d : List Byte) (y x : Nat) :
    planeIndex s d y x = planeBits s d y x s.hdr.nplanes.toNat := rfl

theorem getLsbD_planeBits (s : State) (d : List Byte) (y x n : Nat) {j : Nat} (hj : j < 8) :
    (planeBits s d y x n).getLsbD j = (decide (j < n) && imageBit s d y j x) := by
  induction n with
  | zero => simp [planeBits]
  | succ n ih =>
    have hsucc : planeBits s d y x (n + 1) =
        planeBits s d y x n ||| (if imageBit s d y n x then 1#8 else 0#8) <<< n := by
      rw [planeBits, planeBits, List.range_succ, List.foldl_append]
      rfl
    have hbit : ((if imageBit s d y n x then 1#8 else 0#8) <<< n).getLsbD j =
        (decide (j = n) && imageBit s d y n x) := by
      cases imageBit s d y n x
      · simp
      · rw [if_pos rfl, BitVec.getLsbD_shiftLeft, BitVec.getLsbD_one, Bool.eq_iff_iff]
        simp
        omega
    rw [hsucc, BitVec.getLsbD_or, ih, hbit]
    by_cases hjn : j = n
    · subst hjn; simp
    · have hlt : j < n + 1 ↔ j < n := by omega
      simp [hjn, hlt]

/-- The image has no byte in a column no decoded byte covers (R189). -/
theorem imageByte_of_uncovered (h : ¬ coveringByte s (columnOf s a) < s.hdr.bpl.toNat) : imageByte s d a = none :=
  if_neg h

theorem imageByte_of_idx8 (hmode : s.mode = .idx8) (h : coveringByte s (columnOf s a) < s.hdr.bpl.toNat) :
    imageByte s d a = some (pixelByte s.pal (d.getD (byteNumber s (rowOf s a) 0 (columnOf s a)) 0#8) (a % 4)) := by
  unfold imageByte pixelByte
  simp only [if_pos h, hmode]
  split <;> rfl

theorem imageByte_of_rgb24 (hmode : s.mode = .rgb24) (h : coveringByte s (columnOf s a) < s.hdr.bpl.toNat) :
    imageByte s d a = some (if a % 4 < 3 then d.getD (byteNumber s (rowOf s a) (a % 4) (columnOf s a)) 0#8
      else Config.alpha) := by
  unfold imageByte
  simp only [if_pos h, hmode]
  split <;> rfl

theorem imageByte_of_bp1 (hmode : s.mode = .bp1) (h : coveringByte s (columnOf s a) < s.hdr.bpl.toNat) :
    imageByte s d a = some (pixelByte s.pal (planeIndex s d (rowOf s a) (columnOf s a)) (a % 4)) := by
  unfold imageByte pixelByte
  simp only [if_pos h, hmode]
  split <;> rfl

/-- The image of a stream and its size rest on registers a delivery keeps (R29, R42). -/
theorem imageByte_afterByte (n : BitVec 6) (v : Byte) (c : Nat) (acc : List (BitVec 4)) (m : Memory) (d : List Byte)
    (a : Nat) : imageByte (afterByte s n v c acc m) d a = imageByte s d a := by
  obtain ⟨b, p, r, acc', st, hafter⟩ := afterByte_keeps s n v c acc m
  rw [hafter]
  rfl

theorem pixSize_afterByte (n : BitVec 6) (v : Byte) (c : Nat) (acc : List (BitVec 4)) (m : Memory) :
    pixSize (afterByte s n v c acc m) = pixSize s := by
  obtain ⟨b, p, r, acc', st, hafter⟩ := afterByte_keeps s n v c acc m
  rw [hafter]
  rfl

/-! ### A decode on its way -/

/-- The accumulators hold the bits of the current scanline the stream `d` has delivered (R183). -/
def AccHolds (s : State) (d : List Byte) : Prop :=
  ∀ x < s.width.toNat, ∀ q < 4, (accAt s.acc x).getLsbD q =
    (decide (Delivered s s.row.toNat q (x / 8)) && imageBit s d s.row.toNat q x)

/-- A decode of the stream `d` on its way: what is still to come, and what ACC and PIX hold. -/
structure Decoding (d : List Byte) (s : State) : Prop where
  alone : Alone s
  phase : s.status = .decode ∨ s.status = .done
  rest : pending s = d.drop (position s)
  pix : ∀ a, pixByte s a = if WrittenBefore s a then imageByte s d a else none
  accs : s.status = .decode → s.mode = .bp1 → AccHolds s d

/-- At the entry of DECODE nothing is delivered, and ACC is clear (R150). -/
theorem DecodeEntry.decoding (h : DecodeEntry s) : Decoding (expand (inputFrom s 128)) s := by
  obtain ⟨-, -, hrow, hpln, hbcnt⟩ := h.atStart
  refine ⟨h.toAlone, .inl h.phase, by rw [h.pending_eq, h.position_eq, List.drop_zero], fun a => ?_,
    fun hdecode hmode x hx q hq => ?_⟩
  · rw [pixByte_of_pix_empty h.fresh, if_neg (not_writtenBefore_of_start hrow hpln hbcnt a)]
  · obtain ⟨-, hclean⟩ := h.inv.accs hdecode hmode
    have hnone : ¬ Delivered s s.row.toNat q (x / 8) := by simp [Delivered, hpln, hbcnt]
    rw [hclean x hx q hq (by simp [hpln, hbcnt]; omega), decide_eq_false hnone, Bool.false_and]

/-- The decoded byte at the position is the stream's byte of its number. -/
theorem Decoding.getD_position (h : Decoding d s) {v : Byte} {rest : List Byte} (hpending : pending s = v :: rest) :
    d.getD (position s) 0#8 = v := by
  have hdrop : (d.drop (position s))[0]? = some v := by rw [← h.rest, hpending]; rfl
  rw [List.getElem?_drop, Nat.add_zero] at hdrop
  rw [List.getD_eq_getElem?_getD, hdrop]
  rfl

section Byte

variable {v : Byte} {acc : List (BitVec 4)} {m : Memory}

/-- ACC after the byte at the position: the bits delivered before, and its own (R183). -/
theorem Delivery.bits_of_holds (hdel : Delivery s v acc m) (hmode : s.mode = .bp1) (hholds : AccHolds s d)
    (hv : d.getD (position s) 0#8 = v) {x q : Nat} (hx : x < s.width.toNat)
    (hq : q < 4) : (accAt acc x).getLsbD q =
      (decide (Delivered s s.row.toNat q (x / 8) ∨ (q = s.pln.toNat ∧ x / 8 = s.bcnt.toNat)) &&
        imageBit s d s.row.toNat q x) := by
  rw [hdel.bits hmode x hx q hq, hholds x hx q hq]
  by_cases hnow : q = s.pln.toNat ∧ x / 8 = s.bcnt.toNat
  · obtain ⟨hplane, hbyte⟩ := hnow
    have hbit : imageBit s d s.row.toNat q x = columnBit Config.bitOrder v (x % 8) := by
      rw [imageBit, hplane, hbyte, ← hv, position]
    simp [hplane, hbyte, ← hbit]
  · have hother : (x / 8 == s.bcnt.toNat && q == s.pln.toNat) = false := by
      refine Bool.eq_false_iff.mpr fun hboth => hnow ?_
      rwa [Bool.and_eq_true, beq_iff_eq, beq_iff_eq, and_comm] at hboth
    simp only [hother, Bool.false_and, Bool.or_false, or_iff_left hnow]

/-- With the last plane the accumulator is the palette index of the image (R183, R185). -/
theorem Delivery.accIndex_eq (hdel : Delivery s v acc m) (h : Inv s) (hdecode : s.status = .decode)
    (hmode : s.mode = .bp1) (hholds : AccHolds s d)
    (hv : d.getD (position s) 0#8 = v) {x : Nat} (hx : x < s.width.toNat)
    (hbyte : x / 8 = s.bcnt.toNat) (hlast : s.pln.toNat + 1 = s.hdr.nplanes.toNat) :
    accIndex acc x = planeIndex s d s.row.toNat x := by
  have hat := h.atByte hdecode
  have hplanes := hat.planes
  have hbpl := hat.byte
  refine BitVec.eq_of_getLsbD_eq fun j hj => ?_
  rw [planeIndex_eq, getLsbD_planeBits _ _ _ _ _ hj, accIndex, BitVec.getLsbD_setWidth, decide_eq_true hj,
    Bool.true_and]
  by_cases hq : j < 4
  · rw [hdel.bits_of_holds hmode hholds hv hx hq]
    congr 2
    rw [Delivered, hbyte]
    exact propext (by omega)
  · rw [BitVec.getLsbD_of_ge _ _ (not_lt.mp hq), decide_eq_false (by omega), Bool.false_and]

/-- The byte a delivery writes is the image's byte at that address (R181 to R183, R188). -/
theorem Decoding.imageByte_of_writesNow (h : Decoding d s) (hdecode : s.status = .decode) (hdel : Delivery s v acc m)
    (hv : d.getD (position s) 0#8 = v) (hnow : WritesNow s a) :
    imageByte s d a = some (writtenByte s acc v a) := by
  have hat := h.alone.inv.atByte hdecode
  have hplane := hat.plane
  obtain ⟨-, hrow, hwriting, hcover⟩ := hnow
  have hcovered : coveringByte s (columnOf s a) < s.hdr.bpl.toNat := hcover ▸ hat.byte
  have hpair := h.alone.inv.pair (.inr (.inl hdecode))
  rw [← hv, position]
  cases hmode : s.mode with
  | none => exact absurd hmode (supportedPair_mode_ne_none hpair)
  | idx8 =>
    simp only [coveringByte, hmode] at hcover
    have hzero : s.pln.toNat = 0 := by
      obtain ⟨-, hn⟩ := (mode_idx8_iff hpair).mp hmode
      rw [hn] at hplane
      exact Nat.lt_one_iff.mp hplane
    rw [imageByte_of_idx8 hmode hcovered, hrow, hcover, writtenByte, hmode, hzero]
  | rgb24 =>
    simp only [coveringByte, hmode] at hcover
    simp only [writingPlane, hmode] at hwriting
    rw [imageByte_of_rgb24 hmode hcovered, hrow, hcover, writtenByte, hmode]
    by_cases hchannel : a % 4 < 3
    · have hpln : a % 4 = s.pln.toNat := by omega
      simp only [hpln]
    · simp only [if_neg hchannel]
  | bp1 =>
    simp only [coveringByte, hmode] at hcover
    simp only [writingPlane, hmode] at hwriting
    have hwidth : columnOf s a < s.width.toNat := by
      obtain ⟨hw, -⟩ := h.alone.inv.dims (by rw [hdecode]; rfl)
      exact Nat.mod_lt _ (by omega)
    rw [imageByte_of_bp1 hmode hcovered, hrow, writtenByte, hmode,
      hdel.accIndex_eq h.alone.inv hdecode hmode (h.accs hdecode hmode) hv hwidth hcover (by omega)]

/-- PIX after a delivery: the image at the addresses written so far. -/
theorem Decoding.pix_afterByte (h : Decoding d s) (hdecode : s.status = .decode) (hdel : Delivery s v acc m)
    (hv : d.getD (position s) 0#8 = v) (n : BitVec 6) (c a : Nat) :
    pixByte (afterByte s n v c acc m) a =
      if WrittenBefore (afterByte s n v c acc m) a then imageByte (afterByte s n v c acc m) d a else none := by
  simp only [pixByte_afterByte, writtenBefore_afterByte h.alone.inv hdecode, imageByte_afterByte, hdel.read]
  by_cases hnow : WritesNow s a
  · rw [if_pos hnow, if_pos (.inr hnow), h.imageByte_of_writesNow hdecode hdel hv hnow]
  · rw [if_neg hnow, h.pix]
    simp only [or_iff_left hnow]

/-- ACC after the advance, when it holds the bits delivered before and those of the byte at the position: a new
scanline begins with none (R155). -/
theorem AccHolds.after_advance (h : AtByte s) (hmode : s.mode = .bp1) (hmore : (advance s).status = .decode)
    (hbits : ∀ x < s.width.toNat, ∀ q < 4, (accAt s.acc x).getLsbD q =
      (decide (Delivered s s.row.toNat q (x / 8) ∨ (q = s.pln.toNat ∧ x / 8 = s.bcnt.toNat)) &&
        imageBit s d s.row.toNat q x)) : AccHolds (advance s) d := by
  intro x hx q hq
  rw [advance_width] at hx
  have hbpl := h.byte
  have himage (y : Nat) : imageBit (advance s) d y q x = imageBit s d y q x := by
    simp only [imageBit, byteNumber, advance_hdr]
  have hrange := h.advanced.in_range h hmore
  have hsame (hacc : (advance s).acc = s.acc) (hrow : (advance s).row.toNat = s.row.toNat)
      (hdelivered : Delivered (advance s) s.row.toNat q (x / 8) ↔
        Delivered s s.row.toNat q (x / 8) ∨ (q = s.pln.toNat ∧ x / 8 = s.bcnt.toNat)) :
      (accAt (advance s).acc x).getLsbD q =
        (decide (Delivered (advance s) (advance s).row.toNat q (x / 8)) &&
          imageBit (advance s) d (advance s).row.toNat q x) := by
    rw [hacc, hbits x hx q hq, himage]
    simp only [hrow, hdelivered]
  cases h.advanced with
  | inPlane hbyte hbcnt hpln hrow hacc =>
    refine hsame hacc hrow ?_
    simp only [Delivered, advance_hdr, hbcnt, hpln, hrow, true_and]; omega
  | nextPlane hbyte hplane hbcnt hpln hrow hacc =>
    refine hsame hacc hrow ?_
    simp only [Delivered, advance_hdr, hbcnt, hpln, hrow, true_and, BitVec.toNat_zero]; omega
  | nextRow hbyte hplane hbcnt hpln hrow hacc =>
    have hnone : ¬ Delivered (advance s) (advance s).row.toNat q (x / 8) := by
      simp [Delivered, hbcnt, hpln]
    rw [hacc, if_pos ⟨hmode, by omega⟩, accAt_accClear, decide_eq_false hnone, Bool.false_and, BitVec.getLsbD_zero]

/-- ACC after a delivery. -/
theorem Decoding.accs_afterByte (h : Decoding d s) (hdecode : s.status = .decode) (hdel : Delivery s v acc m)
    (hv : d.getD (position s) 0#8 = v) (n : BitVec 6) (c : Nat) (hmode : s.mode = .bp1)
    (hmore : (afterByte s n v c acc m).status = .decode) : AccHolds (afterByte s n v c acc m) d := by
  have hat : AtByte (setPixels acc m (setRun n v c s)) := { h.alone.inv.atByte hdecode with }
  exact AccHolds.after_advance hat hmode hmore fun x hx q hq =>
    hdel.bits_of_holds hmode (h.accs hdecode hmode) hv hx hq

end Byte

/-- The outcomes of a step of a decode: the decode goes on over the same image, or raises. -/
theorem Decoding.after_step (h : Decoding d s) (hstep : blockStep s = .next t) :
    t.status = .error ∨
      (Decoding d t ∧ (∀ a, imageByte t d a = imageByte s d a) ∧ pixSize t = pixSize s) := by
  obtain hdecode | hdone := h.phase
  · have hbyte : byteStep s = .next t := by simpa only [blockStep, hdecode] using hstep
    cases hpending : pending s with
    | nil =>
      obtain ⟨v, c, hraise⟩ := byteStep_of_pending_nil h.alone.loaded hdecode hpending
      rw [hraise] at hbyte
      cases hbyte
      exact .inl rfl
    | cons v rest =>
      obtain ⟨u, hu, hrest, n, c, acc, m, -, -, hdel, -, heq⟩ :=
        byteStep_of_pending_cons h.alone.inv h.alone.loaded hdecode hpending
      obtain rfl : u = t := Host.Outcome.next.inj (hu.symm.trans hbyte)
      have hv := h.getD_position hpending
      have halone := h.alone.after hstep
      subst heq
      refine .inr ⟨⟨halone, afterByte_status h.alone.inv hdecode .., ?_, h.pix_afterByte hdecode hdel hv n c,
        fun hmore hmode => h.accs_afterByte hdecode hdel hv n c ?_ hmore⟩, imageByte_afterByte n v c acc m d,
        pixSize_afterByte ..⟩
      · rw [hrest, position_afterByte h.alone.inv hdecode, ← List.tail_drop, ← h.rest, hpending]
        rfl
      · obtain ⟨b, p, r, acc', st, hafter⟩ := afterByte_keeps s n v c acc m
        rw [hafter] at hmode
        exact hmode
  · rw [blockStep_of_not_busy (busy_eq_false_iff.mpr (.inr (.inl hdone)))] at hstep
    cases hstep
    exact .inr ⟨h, fun _ => rfl, rfl⟩

/-- A decode that has reached DONE has kept its invariant over the whole run. -/
theorem Decoding.after_run {k : Nat} (h : Decoding d s) (hrun : core.run k s = .next t) (hdone : t.status = .done) :
    Decoding d t ∧ (∀ a, imageByte t d a = imageByte s d a) ∧ pixSize t = pixSize s := by
  induction k generalizing s with
  | zero => cases hrun; exact ⟨h, fun _ => rfl, rfl⟩
  | succ k ih =>
    obtain ⟨u, hstep, hrest⟩ := andThen_eq_next.mp ((run_succ k s).symm.trans hrun)
    rw [step_of_alone h.alone.alone] at hstep
    obtain herror | ⟨hdecoding, himage, hsize⟩ := h.after_step hstep
    · have hstay := run_of_ended (h.alone.after hstep).alone (.inr herror) k
      cases hstay.symm.trans hrest
      rw [herror] at hdone
      cases hdone
    · obtain ⟨ht, himage', hsize'⟩ := ih hdecoding hrest
      exact ⟨ht, fun a => (himage' a).trans (himage a), hsize'.trans hsize⟩

/-- In DONE the host reads the image of the stream. -/
theorem Decoding.hostReadPix_eq (h : Decoding d s) (hdone : s.status = .done) (ha : a < pixSize s) :
    hostReadPix a s = imageByte s d a := by
  have hread : hostReadPix a s = pixByte s a := if_pos ⟨hdone, ha⟩
  have hwritten := h.alone.inv.writtenBefore_of_done hdone ha
  rw [hread, h.pix]
  by_cases hcovered : coveringByte s (columnOf s a) < s.hdr.bpl.toNat
  · rw [if_pos (hwritten.mpr hcovered)]
  · rw [if_neg (mt hwritten.mp hcovered), imageByte_of_uncovered hcovered]

end Image

/-- Settles O53: the entry begins a decode of the stream, the run keeps it, and in DONE PIX is the stream's image. -/
theorem decodedImageIsTheStreamsImage : Obligations.DecodedImageIsTheStreamsImage := by
  intro s t k h hrun hdone a ha
  obtain ⟨ht, himage, hsize⟩ := h.decoding.after_run hrun hdone
  rw [ht.hostReadPix_eq hdone (hsize ▸ ha), himage]

end Sys2Proof.Machine
end
